-- ==== Sys2Proof/Word.lean ====
section
/-! DEFINITION. The word types of the block (00_scope.md R7, R8): plain bit vectors, unsigned throughout.
The `LENW`-bit quantities `LEN`, `CURSOR`, `cmd_len` and `pl_idx` are counts and indices, `Nat` below `2^LENW`, since
`LENW` is a parameter (notes/assumptions/1.md).
Bit-field helpers stand in Decode.lean and under Machine/. -/

namespace Sys2Proof

/-- One payload byte, one shift-register word (`SRW` = 8, R7). -/
abbrev Byte := BitVec 8

/-- The 7-bit target address (`ADDRW`, R7). -/
abbrev Addr := BitVec 7

/-- A phase code (`PHASEW` = 3, R21). -/
abbrev PhaseCode := BitVec 3

end Sys2Proof
end

