-- ==== Sys2Proof/Config.lean ====
section
/-! DEFINITION. What an implementation fixes (00_scope.md R7) and the free values of the model. -/

namespace Sys2Proof

/-- `FLAGS_RESET` at its default (R7, D7). Any 3-bit value is allowed: the value in force is the field `flagsReset`
of State, and this constant is only what State.reset puts there (notes/assumptions/2.md). -/
def Config.flagsReset : BitVec 3 := 0b000#3

/-- `LENW` at its default (R7, D3). Any width is allowed: the width in force is the field `lenw` of State, and this
constant is only what State.reset puts there (notes/assumptions/1.md). -/
def Config.lenw : Nat := 8

/-- What a payload byte that nothing has written reads as. DESIGN CHOICE, unsafe: the spec says nothing of a buffer
the caller has not filled (notes/assumptions/4.md). -/
def Config.unlistedByte : Byte := 0x00#8

/-- The free value of the TARGET oracle: the level `t_sda` it supplies at the n-th bit step for which no answer is
lined up (20_memory.md R75 (a)). No body: a claim holds for every target (notes/assumptions/6.md). -/
opaque Config.targetSda : Nat → Bool

/-- The free value of the TARGET oracle: whether it lets the clock rise at the n-th such bit step (R75 (b)). -/
opaque Config.targetScl : Nat → Bool

end Sys2Proof
end

