-- ==== Sys2Proof/Syntax.lean ====
section
/-! DEFINITION. The operations: one constructor per row of spec/opcode_table.json (00_scope.md R11). -/

namespace Sys2Proof

/-- The operations of the block. Operands are those of the operation's own rule; operands the spec calls implicit
(`ADDRBYTE`, `CURSOR`, `SR`, `CNT`) are read from the state. -/
inductive Instr where
  | wt (a : Addr) (len : Nat)                 -- WT, R140
  | phStart                                   -- PH.START, R153
  | phAddrAck                                 -- PH.ADDR_ACK, R154
  | phAddrCheckAck                            -- PH.ADDR_CHECK.ACK, R155
  | phAddrCheckNack                           -- PH.ADDR_CHECK.NACK, R157
  | phDataAck                                 -- PH.DATA_ACK, R156
  | phDataCheckNext                           -- PH.DATA_CHECK.NEXT, R158
  | phDataCheckLast                           -- PH.DATA_CHECK.LAST, R159
  | phDataCheckNack                           -- PH.DATA_CHECK.NACK, R160
  | reserved101                               -- RESERVED.101, R161
  | reserved11x                               -- RESERVED.11x, R161
  | txBit                                     -- TXBIT, R121
  | rxBit                                     -- RXBIT, R122
  | dirOut                                    -- DIR_OUT, R100
  | dirIn                                     -- DIR_IN, R101
  | loadSr (v : Byte)                         -- LOAD_SR, R102
  | loadCnt (n : Byte)                        -- LOAD_CNT, R103
  | readRx                                    -- READ_RX, R104
  | raiseIfg                                  -- RAISE_IFG, R105
  | clearIfg                                  -- CLEAR_IFG, R106
  | latchOpen                                 -- LATCH_OPEN, R107
  | latchClose                                -- LATCH_CLOSE, R108
  | sclRelease                                -- SCL_RELEASE, R109
  | startGen                                  -- START_GEN, R110
  | stopGen                                   -- STOP_GEN, R111
  | stopActions                               -- STOP_ACTIONS, R167
  | reset                                     -- RESET, R210
  | wait                                      -- WAIT, R142
  | readErr                                   -- READ_ERR, R144
  | writeTransaction (a : Addr) (len : Nat)   -- WRITE_TRANSACTION, R93
  deriving DecidableEq, Repr

end Sys2Proof
end

