-- ==== Sys2Proof/Decode.lean ====
section
/-! DEFINITION. The decoder and the encoder (30_encoding.md). An operation's word is presented on the channel of its
format: the command port, the dispatch word, the sequencer's selector, the strobe word, the reset pin. The channel is
part of the word, since a bit pattern alone does not tell the formats apart (R80, R88). -/

namespace Sys2Proof

/-- A word on the channel of its format, at the width the spec gives the format (R80). -/
inductive OpWord where
  | cmd (valid : BitVec 1) (a : Addr) (len : Nat)    -- CMD, R81: `cmd_valid`, `cmd_addr`, `cmd_len` (`LENW` bits)
  | dw (w : BitVec 5)                        -- DW, R87
  | seq (w : BitVec 1)                       -- SEQ, R91
  | prim (w : BitVec 10) (operand : Byte)    -- PRIM, R90, the operand beside the strobe word
  | pin (w : BitVec 1)                       -- PIN, R88
  deriving DecidableEq, Repr

/-- Why a word selects no operation. -/
inductive DecodeError where
  /-- `cmd_valid` is 0: no command is presented (R81). -/
  | noCommand
  /-- The strobe word is not one-hot: the primitives are strobes "at most one active at a time" (R90). -/
  | notOneHot (w : BitVec 10)
  /-- `rst` is 0: no reset is applied (R210). -/
  | noReset
  deriving DecidableEq, Repr

/-- The command's ports packed into one word of `8 + LENW` bits, `cmd_valid` on top, then `cmd_addr`, then `cmd_len`:
the nominal packing of opcode_table.json, which gives it at `LENW` = 8 (R81). -/
def packCmd (lenw : Nat) (valid : BitVec 1) (a : Addr) (len : Nat) : Nat :=
  (valid.toNat * 128 + a.toNat) * 2 ^ lenw + len % 2 ^ lenw

/-- A packed command taken apart into the ports. -/
def unpackCmd (lenw w : Nat) : OpWord :=
  .cmd (BitVec.ofNat 1 (w / 2 ^ lenw / 128)) (BitVec.ofNat 7 (w / 2 ^ lenw)) (w % 2 ^ lenw)

/-- The dispatch word `PHASE, NACK, LAST` (R87). -/
def dispatchWord (p : PhaseCode) (nack last : Bool) : BitVec 5 := p ++ BitVec.ofBool nack ++ BitVec.ofBool last

/-- Format `CMD` (R81). -/
def decodeCmd (valid : BitVec 1) (a : Addr) (len : Nat) : Except DecodeError Instr :=
  if valid = 1#1 then .ok (.wt a len) else .error .noCommand

/-- The operation a phase code selects with the two condition bits (R88). `n` and `l` are don't-care for the phase
codes that do not inspect them. -/
def decodePhase (p : PhaseCode) (n l : Bool) : Instr :=
  if p = 0b000#3 then .phStart
  else if p = 0b001#3 then .phAddrAck
  else if p = 0b010#3 then (if n then .phAddrCheckNack else .phAddrCheckAck)
  else if p = 0b011#3 then .phDataAck
  else if p = 0b100#3 then (if n then .phDataCheckNack else if l then .phDataCheckLast else .phDataCheckNext)
  else if p = 0b101#3 then .reserved101
  else .reserved11x

/-- Format `DW` (R87, R88): all 32 values are assigned, 12 of them reserved. -/
def decodeDw (w : BitVec 5) : Instr := decodePhase (w.extractLsb' 2 3) (w.getLsbD 1) (w.getLsbD 0)

/-- Format `SEQ` (R91): the single bit `OE`. -/
def decodeSeq (w : BitVec 1) : Instr := if w = 1#1 then .txBit else .rxBit

/-- Format `PRIM` (R90): one-hot, bit 9 leftmost. The operand byte is read by `LOAD_SR` and `LOAD_CNT` alone. -/
def decodePrim (w : BitVec 10) (operand : Byte) : Except DecodeError Instr :=
  if w = 0b1000000000#10 then .ok .dirOut
  else if w = 0b0100000000#10 then .ok .dirIn
  else if w = 0b0010000000#10 then .ok (.loadSr operand)
  else if w = 0b0001000000#10 then .ok (.loadCnt operand)
  else if w = 0b0000100000#10 then .ok .readRx
  else if w = 0b0000010000#10 then .ok .raiseIfg
  else if w = 0b0000001000#10 then .ok .clearIfg
  else if w = 0b0000000100#10 then .ok .latchOpen
  else if w = 0b0000000010#10 then .ok .latchClose
  else if w = 0b0000000001#10 then .ok .sclRelease
  else .error (.notOneHot w)

/-- Format `PIN` (R88): `rst` = 1 selects `RESET`. -/
def decodePin (w : BitVec 1) : Except DecodeError Instr := if w = 1#1 then .ok .reset else .error .noReset

/-- The decoder: total on every word of every format. -/
def decode : OpWord → Except DecodeError Instr
  | .cmd valid a len => decodeCmd valid a len
  | .dw w => .ok (decodeDw w)
  | .seq w => .ok (decodeSeq w)
  | .prim w operand => decodePrim w operand
  | .pin w => decodePin w

/-- The encoder, from the same tables (R81, R88, R90, R91). Don't-care bits are written as 0. The three macros and
the host steps have no encoding of their own (R88, R93, R142, R144). -/
def encode : Instr → Option OpWord
  | .wt a len => some (.cmd 1#1 a len)
  | .phStart => some (.dw 0b00000#5)
  | .phAddrAck => some (.dw 0b00100#5)
  | .phAddrCheckAck => some (.dw 0b01000#5)
  | .phAddrCheckNack => some (.dw 0b01010#5)
  | .phDataAck => some (.dw 0b01100#5)
  | .phDataCheckNext => some (.dw 0b10000#5)
  | .phDataCheckLast => some (.dw 0b10001#5)
  | .phDataCheckNack => some (.dw 0b10010#5)
  | .reserved101 => some (.dw 0b10100#5)
  | .reserved11x => some (.dw 0b11000#5)
  | .txBit => some (.seq 1#1)
  | .rxBit => some (.seq 0#1)
  | .dirOut => some (.prim 0b1000000000#10 0#8)
  | .dirIn => some (.prim 0b0100000000#10 0#8)
  | .loadSr v => some (.prim 0b0010000000#10 v)
  | .loadCnt n => some (.prim 0b0001000000#10 n)
  | .readRx => some (.prim 0b0000100000#10 0#8)
  | .raiseIfg => some (.prim 0b0000010000#10 0#8)
  | .clearIfg => some (.prim 0b0000001000#10 0#8)
  | .latchOpen => some (.prim 0b0000000100#10 0#8)
  | .latchClose => some (.prim 0b0000000010#10 0#8)
  | .sclRelease => some (.prim 0b0000000001#10 0#8)
  | .startGen => none
  | .stopGen => none
  | .stopActions => none
  | .reset => some (.pin 1#1)
  | .wait => none
  | .readErr => none
  | .writeTransaction _ _ => none

/-- The channel on which a word of the opcode table is presented, from its width alone. DESIGN CHOICE, safe: a word
of at most 8 bits is read as a dispatch word, because the rows of the formats `SEQ` and `PIN` have one bit and in whole
bytes cannot be told from `DW` (notes/assumptions/18.md). A word of up to 16 bits is a command where `cmd_valid`
(bit 15) is 1, `cmd_len` having the table's 8 bits, and a strobe word with operand 0 otherwise. Bits above the format's width must be 0. -/
def tableWord (nbits w : Nat) : Option OpWord :=
  if nbits = 0 then none
  else if nbits = 1 then (if w < 2 then some (.seq (BitVec.ofNat 1 w)) else none)
  else if nbits ≤ 8 then (if w < 32 then some (.dw (BitVec.ofNat 5 w)) else none)
  else if nbits ≤ 16 then
    (if w < 1024 then some (.prim (BitVec.ofNat 10 w) 0#8)
     else if 32768 ≤ w ∧ w < 65536 then some (unpackCmd 8 w) else none)
  else none

/-- The instruction the decoder reads from a word of the opcode table. -/
def decodeTableWord (nbits w : Nat) : Option Instr :=
  match tableWord nbits w with
  | none => none
  | some o =>
    match decode o with
    | .ok i => some i
    | .error _ => none

end Sys2Proof
end

