-- ==== Sys2Proof/Machine/State.lean ====
section
/-! DEFINITION. The state: the thirteen elements of 10_state.md R20, the one parameter value, the ports and the
environment as plain data, and the records claims are stated with; faults and refusals; the state after reset. -/

namespace Sys2Proof.Machine

/-- A symbol of the wire trace (20_memory.md R73). -/
inductive Sym where
  | start            -- `S`
  | stop             -- `P`
  | tx (b : Bool)    -- `T(b)`, one bit driven by the block
  | rx (b : Bool)    -- `R(b)`, one bit sampled by the block
  deriving DecidableEq, Repr

/-- What the block does on the two lines at one moment (10_state.md R35, R112). -/
structure Level where
  sdaPull : Bool
  sclPull : Bool
  deriving DecidableEq, Repr

/-- What the order inside a step is observable of (00_scope.md R6): the block's pulls after a write of `OE`, `SDAQ` or
`SCLQ`, or a symbol emitted. -/
inductive Event where
  | pins (l : Level)
  | sym (y : Sym)
  deriving DecidableEq, Repr

/-- One answer of the TARGET oracle at a bit step (20_memory.md R75): the level it supplies on SDA, and whether it
lets the clock rise. -/
structure Answer where
  tSda : Bool
  clockRises : Bool
  deriving DecidableEq, Repr

/-- The levels of the two input pins at a step boundary (10_state.md R34). -/
structure Pins where
  rst : Bool
  gie : Bool
  deriving DecidableEq, Repr

/-- A statement of the host script (30_encoding.md R93), and the one thing besides that the host may do: change a
byte of its own buffer (42_transaction_initiator.md R145). -/
inductive HostOp where
  | wt (a : Addr) (len : Nat)
  | wait
  | readErr
  | writeTransaction (a : Addr) (len : Nat)
  | poke (i : Nat) (b : Byte)
  deriving DecidableEq, Repr

/-- A primitive's strobe word with its operand, presented by itself (30_encoding.md R90). -/
structure Strobe where
  word : BitVec 10
  operand : Byte
  deriving DecidableEq, Repr

/-- The state of the machine. The first thirteen fields are the block's complete state (R20). -/
structure State where
  /-- `PHASE` (R21): phase code, the block's program counter. -/
  phase : PhaseCode
  /-- `CURSOR` (R22), `LENW` bits, a number below `2^LENW`: next unsent payload byte index. -/
  cursor : Nat
  /-- `ADDRBYTE` (R23): target address and write bit. -/
  addrByte : Byte
  /-- `LEN` (R24), `LENW` bits, a number below `2^LENW`: count of payload bytes. -/
  len : Nat
  /-- `SR` (R25): shift register. -/
  sr : Byte
  /-- `CNTREG` (R26): `FLAGS[7:5]`, `CNT[4:0]`. -/
  cntreg : Byte
  /-- `OE` (R27): direction of the data line, true = output. -/
  oe : Bool
  /-- `GE` (R28): output latch transparent. -/
  ge : Bool
  /-- `SDAQ` (R29): SDA output latch, true = released. -/
  sdaq : Bool
  /-- `SCLQ` (R30): SCL output latch, true = released. -/
  sclq : Bool
  /-- `IFG` (R31): completion flag. -/
  ifg : Bool
  /-- `ERR` (R32): error indicator. -/
  err : Bool
  /-- `BUSY` (R33): a transaction is in flight. -/
  busy : Bool
  /-- `LENW` (00_scope.md R7, D3): the parameter's value; no step changes it. -/
  lenw : Nat
  /-- `FLAGS_RESET` (00_scope.md R7): the parameter's value; no step changes it. -/
  flagsReset : BitVec 3
  /-- Port `rst` (R34). -/
  rst : Bool
  /-- Port `gie` (R34). -/
  gie : Bool
  /-- Levels of `rst` and `gie` at the coming step boundaries, next first; when empty the last levels hold. -/
  pins : List Pins
  /-- The host's statements not yet taken, next first (R93). -/
  script : List HostOp
  /-- A strobe word presented by itself; no step sets it (notes/assumptions/10.md). -/
  strobe : Option Strobe
  /-- The caller's buffer bound to the payload port (20_memory.md R60), in the canonical form of Memory.wf. -/
  payload : List Host.Cell
  /-- The TARGET oracle's answers not yet used, next first (R75). -/
  oracle : List Answer
  /-- The model's own counter: how many free answers have been drawn. -/
  draws : Nat
  /-- The pin changes and the wire symbols in the one order in which they happen, oldest first (00_scope.md R6). The
  wire trace `WIRE` (R73) is the symbols in it. -/
  events : List Event
  /-- The payload indices presented on `pl_idx`, oldest first (R61). -/
  reads : List Nat
  /-- How often the port `wake` has fired (R34). -/
  wakes : Nat
  /-- The results of `READ_ERR`, oldest first (R144). -/
  errReads : List Bool
  /-- The results of the primitive `READ_RX` run by itself, oldest first (R104). -/
  rxReads : List Byte
  deriving DecidableEq, Repr

/-- Why the machine stops with a fault. Each is the spec's own treatment of a violated duty of the caller, and each is
safe: the hardware goes on, in a way the spec gives no meaning to. -/
inductive Fault where
  /-- Raised by `WT` and `WRITE_TRANSACTION` while `BUSY` is 1 (R141 (a), U1). Safe. -/
  | commandInFlight
  /-- Raised by `WT` and `WRITE_TRANSACTION` with a length of 0 (R141 (b), U2). Safe. -/
  | zeroLength
  /-- Raised by a change of the caller's buffer while `BUSY` is 1 (R65, U5). Safe. -/
  | payloadWriteInFlight
  /-- Raised by `PH.ADDR_CHECK.ACK` and `PH.DATA_CHECK.NEXT` reading a payload index at or above `LEN` (R61). Safe. -/
  | payloadOutOfRange
  /-- Raised by the reserved dispatch words (R161, U7). Safe. -/
  | reservedDispatch
  deriving DecidableEq, Repr

/-- Why the machine refuses. -/
inductive Refusal where
  /-- Raised by an arm of exec whose instruction has no meaning yet. Safe. -/
  | notModelled (mnemonic : String)
  /-- Raised by step where a presented word selects no operation, which only a strobe word that is not one-hot can
  bring about (R90). Safe. -/
  | undecodable (e : DecodeError)
  /-- Raised by `WT` and `WRITE_TRANSACTION` with a length, and by a change of the caller's buffer at an index, that a
  `LENW`-bit port cannot carry: it "cannot be expressed" (R141 (d), R34). Safe. -/
  | widerThanPort
  deriving DecidableEq, Repr

/-- The machine right after reset (10_state.md R40, 70_reset_and_hazards.md R210), with nothing presented to it.
DESIGN CHOICE, unsafe: `CURSOR`, `ADDRBYTE`, `LEN` and `SR` have no reset value in the spec and are 0 here
(notes/assumptions/3.md); `gie` is 1 (notes/assumptions/5.md). -/
def State.reset : State where
  phase := 0b000#3
  cursor := 0
  addrByte := 0x00#8
  len := 0
  sr := 0x00#8
  cntreg := Config.flagsReset ++ 0b00000#5
  oe := false
  ge := false
  sdaq := true
  sclq := true
  ifg := false
  err := false
  busy := false
  lenw := Config.lenw
  flagsReset := Config.flagsReset
  rst := false
  gie := true
  pins := []
  script := []
  strobe := none
  payload := []
  oracle := []
  draws := 0
  events := []
  reads := []
  wakes := 0
  errReads := []
  rxReads := []

end Sys2Proof.Machine
end

