-- ==== Sys2Proof/Machine/Flags.lean ====
section
/-! DEFINITION. The derived signals (10_state.md R35, 20_memory.md R74), the two fields of CNTREG (R26, R85), and the
bit-level arithmetic of the sequencer (R126). -/

namespace Sys2Proof.Machine

/-- The wire symbols of a record of events. -/
def symbols : List Event → List Sym
  | [] => []
  | .pins _ :: rest => symbols rest
  | .sym y :: rest => y :: symbols rest

/-- The wire trace `WIRE` (20_memory.md R73). -/
def wire (s : State) : List Sym := symbols s.events

/-- `CNT = CNTREG[4:0]` (R85). -/
def cnt (s : State) : BitVec 5 := s.cntreg.extractLsb' 0 5

/-- `FLAGS = CNTREG[7:5]` (R85). -/
def flagBits (s : State) : BitVec 3 := s.cntreg.extractLsb' 5 3

/-- `NACK = SR[0]`, the ACK/NACK detector (R35). -/
def nack (s : State) : Bool := s.sr.getLsbD 0

/-- `LAST = (CURSOR == LEN)` (R35). -/
def last (s : State) : Bool := s.cursor == s.len

/-- `DW`, the dispatch word of the present state (R35, R87). -/
def dw (s : State) : BitVec 5 := dispatchWord s.phase (nack s) (last s)

/-- `sda_pull = OE & ~SDAQ` (R35, R112). -/
def sdaPull (s : State) : Bool := s.oe && !s.sdaq

/-- `scl_pull = ~SCLQ` (R35, R112). -/
def sclPull (s : State) : Bool := !s.sclq

/-- The block's pulls on the two lines. -/
def level (s : State) : Level where
  sdaPull := sdaPull s
  sclPull := sclPull s

/-- `sda_line = ~sda_pull & t_sda`: the wired-AND of the data line (R74). -/
def sdaLine (s : State) (tSda : Bool) : Bool := !sdaPull s && tSda

/-- `scl_line = ~scl_pull & t_scl` (R74). -/
def sclLine (s : State) (tScl : Bool) : Bool := !sclPull s && tScl

/-- The sequencer's enabling condition: `IFG == 0` and `CNT != 0` (41_bit_sequencer.md R120). -/
def seqEnabled (s : State) : Bool := !s.ifg && cnt s != 0#5

/-- The controller's enabling condition: `IFG == 1` and `gie == 1` (43_bus_controller.md R150). -/
def ctrlEnabled (s : State) : Bool := s.ifg && s.gie

/-- `CNTREG` with the count field replaced: the mask `0xE0` keeps `FLAGS` (R85, R103). -/
def withCount (cntreg n : Byte) : Byte := (cntreg &&& 0xE0#8) ||| (n &&& 0x1F#8)

/-- `CNT - 1` in place, a 5-bit decrement that leaves `FLAGS` alone (R126). -/
def decCount (cntreg : Byte) : Byte := withCount cntreg ((cntreg.extractLsb' 0 5 - 1#5).zeroExtend 8)

/-- `SR[6:0]` with the sample entering at bit 0 (R126). -/
def shiftIn (sr : Byte) (smp : Bool) : Byte := sr.extractLsb' 0 7 ++ BitVec.ofBool smp

/-- `IFG` after a bit step that leaves `CNT` at this value: set by the step that brings it to 0 (R123). -/
def completes (s : State) : Bool := cnt s == 0#5

end Sys2Proof.Machine
end

