-- ==== Sys2Proof/Machine/Memory.lean ====
section
/-! DEFINITION. The payload space as a list of cells in one canonical form (20_memory.md R60, R61): addresses strictly
rising, and no cell equal to what an unlisted address reads as. The block never writes it (R62); only the host's own
change of its buffer does. -/

namespace Sys2Proof.Machine

/-- The byte at an address. -/
def Memory.read : List Host.Cell → Nat → Byte
  | [], _ => Config.unlistedByte
  | (k, v) :: rest, a => if k = a then v else Memory.read rest a

/-- A cell put before `rest`, left out where it says what an unlisted address reads as. -/
def Memory.cons (a : Nat) (b : Byte) (rest : List Host.Cell) : List Host.Cell :=
  if b = Config.unlistedByte then rest else (a, b) :: rest

/-- One byte written, the form kept. -/
def Memory.write : List Host.Cell → Nat → Byte → List Host.Cell
  | [], a, b => Memory.cons a b []
  | (k, v) :: rest, a, b =>
    if a < k then Memory.cons a b ((k, v) :: rest)
    else if a = k then Memory.cons a b rest
    else (k, v) :: Memory.write rest a b

/-- Every listed address is above `lo` (where one is given), below `2^lenw`, rising, and no cell is redundant. -/
def Memory.wfAbove (lenw : Nat) : Option Nat → List Host.Cell → Bool
  | _, [] => true
  | lo, (k, v) :: rest =>
    (match lo with
      | none => true
      | some m => decide (m < k))
    && decide (k < 2 ^ lenw) && (v != Config.unlistedByte) && Memory.wfAbove lenw (some k) rest

/-- The canonical form: indices `0 .. 2^LENW - 1`, strictly rising, no redundant cell. -/
def Memory.wf (lenw : Nat) (m : List Host.Cell) : Bool := Memory.wfAbove lenw none m

end Sys2Proof.Machine
end

