-- ==== Sys2Proof/Machine/Operands.lean ====
section
/-! DEFINITION. The operand forms: the address+R/W byte (30_encoding.md R82), the payload byte at the cursor
(20_memory.md R61, 43_bus_controller.md R168), and the answer drawn from the TARGET oracle (R75). -/

namespace Sys2Proof.Machine

/-- The address+R/W byte framer: the 7-bit address above a direction bit that is always 0, write (R82). -/
def frameAddress (a : Addr) : Byte := a ++ 0#1

/-- `MemRead(CURSOR, 1)`: the payload byte at the cursor; it has no value at or above `LEN` (R61, R168). -/
def payloadOperand (s : State) : Option Byte :=
  if s.cursor < s.len then some (Memory.read s.payload s.cursor) else none

/-- The state once the payload byte at the cursor has been read and the cursor advanced: `pl_idx` presented the old
cursor (R61), the post-modification `CURSOR <- CURSOR + 1`, in `LENW` bits (R8), follows the read (R168). -/
def advanceCursor (s : State) : State :=
  { s with reads := s.reads ++ [s.cursor], cursor := (s.cursor + 1) % 2 ^ s.lenw }

/-- The TARGET oracle's answer at a bit step: the next one lined up, or else a free one (R75). -/
def answer (s : State) : Answer :=
  match s.oracle with
  | a :: _ => a
  | [] => ⟨Config.targetSda s.draws, Config.targetScl s.draws⟩

/-- The state once that answer has been used. -/
def afterAnswer (s : State) : State :=
  match s.oracle with
  | _ :: rest => { s with oracle := rest }
  | [] => { s with draws := s.draws + 1 }

end Sys2Proof.Machine
end

