-- ==== Sys2Proof/Machine/Ops.lean ====
section
/-! DEFINITION. The shared operations: the three pin registers and their record, the primitives
(40_peripheral_primitives.md), the condition generator, the bit step (41_bit_sequencer.md), the error conditions and
the completion interrupt (60_exceptions.md), the initiator's kick-off, reset, and the host's change of its buffer. -/

namespace Sys2Proof.Machine

/-- What an operation answers. -/
abbrev Result := Host.Outcome State Fault Refusal

/-! ## Pins and the wire trace -/

/-- The block's pulls recorded after a write of `OE`, `SDAQ` or `SCLQ`: the order of pin changes and symbols inside a
step is observable (00_scope.md R6). -/
def noteLevel (s : State) : State := { s with events := s.events ++ [.pins (level s)] }

/-- `OE <- b`. -/
def setOe (b : Bool) (s : State) : State := noteLevel { s with oe := b }

/-- `SDAQ <- b`. -/
def setSdaq (b : Bool) (s : State) : State := noteLevel { s with sdaq := b }

/-- `SCLQ <- b`. -/
def setSclq (b : Bool) (s : State) : State := noteLevel { s with sclq := b }

/-- `emit SYM` (R9, R73). -/
def emit (sym : Sym) (s : State) : State := { s with events := s.events ++ [.sym sym] }

/-! ## Primitives -/

/-- `DIR_OUT` (R100). -/
def dirOut (s : State) : State := setOe true s

/-- `DIR_IN` (R101). -/
def dirIn (s : State) : State := setOe false s

/-- `LOAD_SR(v)`: `SDAQ` follows bit 7 while the latch is transparent (R102). -/
def loadSr (v : Byte) (s : State) : State :=
  if s.ge then setSdaq (v.getLsbD 7) { s with sr := v } else { s with sr := v }

/-- `LOAD_CNT(n)` (R103). -/
def loadCnt (n : Byte) (s : State) : State := { s with cntreg := withCount s.cntreg n }

/-- `RAISE_IFG` (R105). -/
def raiseIfg (s : State) : State := { s with ifg := true }

/-- `CLEAR_IFG` (R106). -/
def clearIfg (s : State) : State := { s with ifg := false }

/-- `LATCH_OPEN` (R107). -/
def latchOpen (s : State) : State := setSdaq (s.sr.getLsbD 7) { s with ge := true }

/-- `LATCH_CLOSE` (R108). -/
def latchClose (s : State) : State := { s with ge := false }

/-- `SCL_RELEASE` (R109). -/
def sclRelease (s : State) : State := setSclq true s

/-! ## The condition generator -/

/-- `START_GEN` (R110). Its precondition is the caller's; the pseudocode runs in every state
(notes/assumptions/29.md). -/
def startGen (s : State) : State :=
  latchClose (emit .start (latchOpen (dirOut (loadSr 0x00#8 s))))

/-- `STOP_GEN` (R111). -/
def stopGen (s : State) : State :=
  dirIn (latchClose (emit .stop (loadSr 0xFF#8 (sclRelease (latchOpen (loadSr 0x00#8 s))))))

/-- `STOP_ACTIONS` (R167): the stop condition, `PHASE <- START`, `BUSY <- 0`; the port `wake` fires where `BUSY` goes
from 1 to 0 (R34). -/
def stopActions (s : State) : State :=
  let t := stopGen s
  { t with phase := 0b000#3, busy := false, wakes := if t.busy then t.wakes + 1 else t.wakes }

/-! ## The bit step -/

/-- One bit transfer, in pin-visible order (R121, R122). `sym` makes the symbol from the bit the latch holds and the
bit sampled. `SDAQ` is written in both directions: R122, R29 and R101 say so, where D9 speaks of transmitting alone
(DEDUCED, notes/assumptions/30.md). -/
def clockBit (sym : Bool → Bool → Sym) (tSda : Bool) (s : State) : State :=
  let low := setSclq false s
  let driven := setSdaq (low.sr.getLsbD 7) low
  let high := setSclq true driven
  let smp := sdaLine high tSda
  let sampled := emit (sym high.sdaq smp) high
  let shifted := { sampled with sr := shiftIn sampled.sr smp, cntreg := decCount sampled.cntreg }
  let held := setSclq false shifted
  if completes held then raiseIfg held else held

/-- A bit step of the sequencer in the direction `wantOut` (R120 to R122): taken only when the sequencer is enabled
and `OE` selects it; where the oracle withholds the clock the step is not taken and only the answer is used (R125). -/
def seqStep (wantOut : Bool) (sym : Bool → Bool → Sym) (s : State) : Result :=
  if seqEnabled s && s.oe == wantOut then
    (if (answer s).clockRises then .next (clockBit sym (answer s).tSda (afterAnswer s)) else .next (afterAnswer s))
  else .next s

/-! ## The completion interrupt and the two error conditions -/

/-- Entry into the controller: it saves nothing and changes no mode bit (R185). -/
def controllerEntry (s : State) : State := s

/-- Return from the controller: the epilogue `CLEAR_IFG`, once and last; it restores nothing (R152, R186). -/
def controllerReturn : Result → Result
  | .next s => .next (clearIfg s)
  | .fault r => .fault r
  | .refused r => .refused r

/-- A controller invocation of one operation (R150): enabled exactly when `IFG == 1` and `gie == 1`; otherwise the
operation is not run and the flag stays as it is (R183). -/
def invoke (op : State → Result) (s : State) : Result :=
  if ctrlEnabled s then controllerReturn (op (controllerEntry s)) else .next s

/-- The two error conditions (R180). -/
inductive BusError where
  | addressNack
  | dataNack
  deriving DecidableEq, Repr

/-- Taking an error condition: it records `ERR <- 1` and nothing else, whichever of the two it is, and does not
transfer control (R180, R181). -/
def takeError (_ : BusError) (s : State) : State := { s with err := true }

/-- `ERR <- 0`: the indicator reflects the last-seen acknowledge (R32). -/
def clearErr (s : State) : State := { s with err := false }

/-- `PHASE <- p` (R9). -/
def setPhase (p : PhaseCode) (s : State) : State := { s with phase := p }

/-- Turning to input for an acknowledge slot of one bit (R154, R156). -/
def openAckSlot (next : PhaseCode) (s : State) : State := setPhase next (loadCnt 1#8 (dirIn s))

/-- Going on with the payload byte at the cursor: load it, advance, program eight bits (R155, R158). -/
def sendPayloadByte (s : State) : Result :=
  let t := clearErr (dirOut s)
  match payloadOperand t with
  | some b => .next (setPhase 0b011#3 (loadCnt 8#8 (advanceCursor (loadSr b t))))
  | none => .fault .payloadOutOfRange

/-! ## The initiator, reset, the host's buffer -/

/-- The kick-off (R140), with the duties R141 makes a fault of. `gie == 0` is no fault: the completion stays pending
(R141 (c)). A length above `MAXLEN` cannot be presented (R141 (d)). -/
def kickOff (a : Addr) (len : Nat) (s : State) : Result :=
  if 2 ^ s.lenw ≤ len then .refused .widerThanPort
  else if s.busy then .fault .commandInFlight
  else if len = 0 then .fault .zeroLength
  else
    let t := raiseIfg { s with addrByte := frameAddress a, len := len, cursor := 0, phase := 0b000#3 }
    .next { t with busy := true }

/-- The blocked wait (R142): with `BUSY == 0` it does nothing; with `BUSY == 1` the host stays in `WAIT`. -/
def waitFor (s : State) : State := if s.busy then { s with script := .wait :: s.script } else s

/-- Reset of the block (R210, R211): the thirteen elements at their reset values with `FLAGS` at `FLAGS_RESET`, the
trace empty, no `P`, no `wake`; the ports and everything outside the block stay. -/
def resetBlock (s : State) : State :=
  { s with
    phase := State.reset.phase, cursor := State.reset.cursor, addrByte := State.reset.addrByte, len := State.reset.len,
    sr := State.reset.sr, cntreg := s.flagsReset ++ 0b00000#5, oe := State.reset.oe, ge := State.reset.ge,
    sdaq := State.reset.sdaq, sclq := State.reset.sclq, ifg := State.reset.ifg, err := State.reset.err,
    busy := State.reset.busy, events := [], reads := [] }

/-- The host changes a byte of its buffer (R145); while a transaction is in flight that is a fault (R65, U5). An index above the payload space cannot be
presented. -/
def hostPoke (i : Nat) (b : Byte) (s : State) : Result :=
  if 2 ^ s.lenw ≤ i then .refused .widerThanPort
  else if s.busy then .fault .payloadWriteInFlight
  else .next { s with payload := Memory.write s.payload i b }

end Sys2Proof.Machine
end

