-- ==== Sys2Proof/Machine/Conditions.lean ====
section
/-! DEFINITION. The START/STOP condition generator and the stop actions (R110, R111, R167). -/

namespace Sys2Proof.Machine

/-- `START_GEN` (R110). -/
def execStartGen (s : State) : Result := .next (startGen s)

/-- `STOP_GEN` (R111). -/
def execStopGen (s : State) : Result := .next (stopGen s)

/-- `STOP_ACTIONS` (R167). -/
def execStopActions (s : State) : Result := .next (stopActions s)

end Sys2Proof.Machine
end

