-- ==== Sys2Proof/Machine/Initiator.lean ====
section
/-! DEFINITION. The host's steps (42_transaction_initiator.md R140 to R145, 30_encoding.md R93) and the reset pin
(70_reset_and_hazards.md R210, R211). -/

namespace Sys2Proof.Machine

/-- `WT a, payload, len` (R140): the payload is what the payload port is bound to and is not read here. -/
def execWt (a : Addr) (len : Nat) (s : State) : Result := kickOff a len s

/-- `WAIT` (R142). -/
def execWait (s : State) : Result := .next (waitFor s)

/-- `READ_ERR` (R144): the result is `ERR`; reading does not clear it. The result goes to the record of results
(notes/assumptions/16.md). -/
def execReadErr (s : State) : Result := .next { s with errReads := s.errReads ++ [s.err] }

/-- `WRITE_TRANSACTION a, payload, len` = `WT; WAIT` (R93): the kick-off, and then the host is in `WAIT`
(notes/assumptions/21.md). -/
def execWriteTransaction (a : Addr) (len : Nat) (s : State) : Result :=
  match kickOff a len s with
  | .next t => .next (waitFor t)
  | .fault r => .fault r
  | .refused r => .refused r

/-- `RESET` (R210, R211). -/
def execReset (s : State) : Result := .next (resetBlock s)

end Sys2Proof.Machine
end

