-- ==== Sys2Proof/Machine/Phases.lean ====
section
/-! DEFINITION. The controller's phase operations (43_bus_controller.md R150 to R161). Which of them runs is the
dispatch word's choice, made once at entry, before any write of the invocation (R151): a meaning here does not look at
the phase, `NACK` or `LAST` again. -/

namespace Sys2Proof.Machine

/-- `PH.START` (R153). -/
def execPhStart (s : State) : Result :=
  invoke (fun t =>
    let u := startGen t
    .next (setPhase 0b001#3 (loadCnt 8#8 (loadSr u.addrByte u)))) s

/-- `PH.ADDR_ACK` (R154). -/
def execPhAddrAck (s : State) : Result := invoke (fun t => .next (openAckSlot 0b010#3 t)) s

/-- `PH.ADDR_CHECK.ACK` (R155): `LAST` is not consulted, the first byte is loaded unconditionally. -/
def execPhAddrCheckAck (s : State) : Result := invoke (fun t => sendPayloadByte t) s

/-- `PH.ADDR_CHECK.NACK` (R157). -/
def execPhAddrCheckNack (s : State) : Result :=
  invoke (fun t => .next (stopActions (takeError .addressNack (dirOut t)))) s

/-- `PH.DATA_ACK` (R156). -/
def execPhDataAck (s : State) : Result := invoke (fun t => .next (openAckSlot 0b100#3 t)) s

/-- `PH.DATA_CHECK.NEXT` (R158). -/
def execPhDataCheckNext (s : State) : Result := invoke (fun t => sendPayloadByte t) s

/-- `PH.DATA_CHECK.LAST` (R159). -/
def execPhDataCheckLast (s : State) : Result :=
  invoke (fun t => .next (stopActions (clearErr (dirOut t)))) s

/-- `PH.DATA_CHECK.NACK` (R160): `LAST` is not consulted. -/
def execPhDataCheckNack (s : State) : Result :=
  invoke (fun t => .next (stopActions (takeError .dataNack (dirOut t)))) s

/-- `RESERVED.101` (R161): the source gives it no behaviour; "A model faults if it ever dispatches one". -/
def execReserved101 (_ : State) : Result := .fault .reservedDispatch

/-- `RESERVED.11x` (R161): as `RESERVED.101`. -/
def execReserved11x (_ : State) : Result := .fault .reservedDispatch

end Sys2Proof.Machine
end

