-- ==== Sys2Proof/Machine/Primitives.lean ====
section
/-! DEFINITION. The ten peripheral primitives (40_peripheral_primitives.md R100 to R109). No primitive raises an
exception and none can fault. -/

namespace Sys2Proof.Machine

/-- `DIR_OUT` (R100). -/
def execDirOut (s : State) : Result := .next (dirOut s)

/-- `DIR_IN` (R101). -/
def execDirIn (s : State) : Result := .next (dirIn s)

/-- `LOAD_SR(v)` (R102). -/
def execLoadSr (v : Byte) (s : State) : Result := .next (loadSr v s)

/-- `LOAD_CNT(n)`: defined by its formula for every operand; a count above 31 is truncated by the mask (R103). -/
def execLoadCnt (n : Byte) (s : State) : Result := .next (loadCnt n s)

/-- `READ_RX`: the result is the current `SR`; nothing of the block is written (R104). The result goes to the record
of results (notes/assumptions/16.md). -/
def execReadRx (s : State) : Result := .next { s with rxReads := s.rxReads ++ [s.sr] }

/-- `RAISE_IFG` (R105). -/
def execRaiseIfg (s : State) : Result := .next (raiseIfg s)

/-- `CLEAR_IFG` (R106). -/
def execClearIfg (s : State) : Result := .next (clearIfg s)

/-- `LATCH_OPEN` (R107). -/
def execLatchOpen (s : State) : Result := .next (latchOpen s)

/-- `LATCH_CLOSE` (R108). -/
def execLatchClose (s : State) : Result := .next (latchClose s)

/-- `SCL_RELEASE` (R109). -/
def execSclRelease (s : State) : Result := .next (sclRelease s)

end Sys2Proof.Machine
end

