-- ==== Sys2Proof/Machine/Sequencer.lean ====
section
/-! DEFINITION. The bit-shift-register sequencer (41_bit_sequencer.md R120 to R127). -/

namespace Sys2Proof.Machine

/-- `TXBIT` (R121): the symbol records the bit the block drives, whatever is sampled. -/
def execTxBit (s : State) : Result := seqStep true (fun driven _ => .tx driven) s

/-- `RXBIT` (R122): the symbol records the bit sampled. -/
def execRxBit (s : State) : Result := seqStep false (fun _ sampled => .rx sampled) s

end Sys2Proof.Machine
end

