-- ==== Sys2Proof/Machine/Dispatch.lean ====
section
/-! DEFINITION. One arm per operation (00_scope.md R11: each is given its meaning by exactly one rule). -/

namespace Sys2Proof.Machine

def exec (i : Instr) (s : State) : Host.Outcome State Fault Refusal :=
  match i with
  | .wt a len => Sys2Proof.Machine.execWt a len s
  | .phStart => Sys2Proof.Machine.execPhStart s
  | .phAddrAck => Sys2Proof.Machine.execPhAddrAck s
  | .phAddrCheckAck => Sys2Proof.Machine.execPhAddrCheckAck s
  | .phAddrCheckNack => Sys2Proof.Machine.execPhAddrCheckNack s
  | .phDataAck => Sys2Proof.Machine.execPhDataAck s
  | .phDataCheckNext => Sys2Proof.Machine.execPhDataCheckNext s
  | .phDataCheckLast => Sys2Proof.Machine.execPhDataCheckLast s
  | .phDataCheckNack => Sys2Proof.Machine.execPhDataCheckNack s
  | .reserved101 => Sys2Proof.Machine.execReserved101 s
  | .reserved11x => Sys2Proof.Machine.execReserved11x s
  | .txBit => Sys2Proof.Machine.execTxBit s
  | .rxBit => Sys2Proof.Machine.execRxBit s
  | .dirOut => Sys2Proof.Machine.execDirOut s
  | .dirIn => Sys2Proof.Machine.execDirIn s
  | .loadSr v => Sys2Proof.Machine.execLoadSr v s
  | .loadCnt n => Sys2Proof.Machine.execLoadCnt n s
  | .readRx => Sys2Proof.Machine.execReadRx s
  | .raiseIfg => Sys2Proof.Machine.execRaiseIfg s
  | .clearIfg => Sys2Proof.Machine.execClearIfg s
  | .latchOpen => Sys2Proof.Machine.execLatchOpen s
  | .latchClose => Sys2Proof.Machine.execLatchClose s
  | .sclRelease => Sys2Proof.Machine.execSclRelease s
  | .startGen => Sys2Proof.Machine.execStartGen s
  | .stopGen => Sys2Proof.Machine.execStopGen s
  | .stopActions => Sys2Proof.Machine.execStopActions s
  | .reset => Sys2Proof.Machine.execReset s
  | .wait => Sys2Proof.Machine.execWait s
  | .readErr => Sys2Proof.Machine.execReadErr s
  | .writeTransaction a len => Sys2Proof.Machine.execWriteTransaction a len s

end Sys2Proof.Machine
end

