-- ==== Sys2Proof/Machine/Select.lean ====
section
/-! DEFINITION. What moves next: the pins are sampled, then one agent is chosen (00_scope.md R5, R6). In a run that
keeps the rules at most one agent is enabled at a time (R68, R120, R150, R184); the order below settles the rest
(notes/assumptions/9.md). -/

namespace Sys2Proof.Machine

/-- What a step does, with the state it does it in. -/
inductive Selected where
  /-- No agent has an enabled step (70_reset_and_hazards.md R226). -/
  | rest (s : State)
  /-- The operation a presented word selects. -/
  | word (w : OpWord) (s : State)
  /-- A host step that has no encoding (R93, R142, R144). -/
  | host (i : Instr) (s : State)
  /-- The host changes a byte of its buffer (R145). -/
  | poke (i : Nat) (b : Byte) (s : State)
  deriving DecidableEq, Repr

/-- The levels of `rst` and `gie` at this step boundary: the next of the schedule, or else the last ones held. -/
def samplePins (s : State) : State :=
  match s.pins with
  | [] => s
  | p :: rest => { s with rst := p.rst, gie := p.gie, pins := rest }

/-- The block's own step: the controller where a completion is pending and enabled (R150), the sequencer where it is
enabled (R120), nothing otherwise. -/
def selectBlock (s : State) : Selected :=
  if ctrlEnabled s then .word (.dw (dw s)) s
  else if seqEnabled s then .word (.seq (BitVec.ofBool s.oe)) s
  else .rest s

/-- The host's step, or the block's while the host has none or is blocked (R33, R142). A command or a buffer change
that the host presents is taken at once, in flight too, where it is a violation of its duties (R213, R214). -/
def selectHost (s : State) : Selected :=
  match s.script with
  | [] => selectBlock s
  | .wt a len :: rest => .word (.cmd 1#1 a len) { s with script := rest }
  | .writeTransaction a len :: rest => .host (.writeTransaction a len) { s with script := rest }
  | .poke i b :: rest => .poke i b { s with script := rest }
  | .wait :: rest => if s.busy then selectBlock s else .host .wait { s with script := rest }
  | .readErr :: rest => if s.busy then selectBlock s else .host .readErr { s with script := rest }

/-- The choice: reset has priority over every other event (R210); a strobe word presented by itself comes next. -/
def select (s : State) : Selected :=
  if s.rst then .word (.pin 1#1) s
  else
    match s.strobe with
    | some k => .word (.prim k.word k.operand) { s with strobe := none }
    | none => selectHost s

/-! ## Presenting a word -/

/-- The state in which no other event is due: reset released, nothing scheduled, no host statement, no strobe. -/
def quiet (s : State) : State := { s with rst := false, pins := [], script := [], strobe := none }

/-- A state in which the controller dispatches the word `w` next: `PHASE`, `SR[0]` and the comparison of `CURSOR` with
`LEN` are what `w` says, and a completion is pending and enabled. Where `LAST` already agrees, `CURSOR` and `LEN` stay. -/
def presentDispatch (s : State) (w : BitVec 5) : State :=
  let t : State :=
    { quiet s with phase := w.extractLsb' 2 3, sr := s.sr.extractLsb' 1 7 ++ w.extractLsb' 1 1, ifg := true, gie := true }
  if w.getLsbD 0 = last t then t
  else if w.getLsbD 0 then { t with len := t.cursor }
  else { t with cursor := 0, len := 1 }

/-- A state in which the sequencer takes the bit step `w` selects next, with one answer of a well-behaved target lined
up: released for a transmit step, an acknowledge for a receive step (R75). -/
def presentBit (s : State) (w : BitVec 1) : State :=
  { quiet s with
    oe := w.getLsbD 0, ifg := false, oracle := ⟨w.getLsbD 0, true⟩ :: s.oracle,
    cntreg := if cnt s = 0#5 then withCount s.cntreg 1#8 else s.cntreg }

/-- A state whose next step runs exactly the operation that the word selects. -/
def present (s : State) : OpWord → State
  | .cmd valid a len => if valid = 1#1 then { quiet s with script := [.wt a len] } else quiet s
  | .dw w => presentDispatch s w
  | .seq w => presentBit s w
  | .prim w operand => { quiet s with strobe := some ⟨w, operand⟩ }
  | .pin w => { quiet s with rst := w.getLsbD 0 }

end Sys2Proof.Machine
end

