-- ==== Sys2Proof/Machine/Step.lean ====
section
/-! DEFINITION. One step: sample the pins, choose what moves, run it. -/

namespace Sys2Proof.Machine

/-- One step of the machine. A run at rest stays as it is (70_reset_and_hazards.md R226). -/
def step (s : State) : Host.Outcome State Fault Refusal :=
  match select (samplePins s) with
  | .rest t => .next t
  | .host i t => exec i t
  | .poke i b t => hostPoke i b t
  | .word w t =>
    match decode w with
    | .ok i => exec i t
    | .error e => .refused (.undecodable e)

/-- `s` with an opcode-table word presented so that the very next step runs it (notes/assumptions/20.md). -/
def State.withFetchWord (s : State) (nbits w : Nat) : State :=
  match tableWord nbits w with
  | some o => present s o
  | none => s

end Sys2Proof.Machine
end

