-- ==== Sys2Proof/Machine/Advance.lean ====
section
/-! DEFINITION. The controller as a function (43_bus_controller.md R162): the transition table, and what it means to
carry a row out. It restates the phase operations; the machine does not run through it. -/

namespace Sys2Proof.Machine

/-- A peripheral action of the table. -/
inductive Action where
  | startGen
  | stopGen
  | dirOut
  | dirIn
  | loadSrAddr
  | loadSrPayload
  | loadCnt (n : Byte)
  | clearIfg
  deriving DecidableEq, Repr

/-- A row of the table: the operation, the next `PHASE`, whether `CURSOR` advances, `ERR` if written, the peripheral
actions in order, and whether the transaction ends. -/
structure Row where
  op : Instr
  nextPhase : PhaseCode
  cursorUp : Bool
  errTo : Option Bool
  actions : List Action
  ends : Bool
  deriving DecidableEq, Repr

/-- The table of R162; the reserved codes have no row. -/
def advance (p : PhaseCode) (n l : Bool) : Option Row :=
  if p = 0b000#3 then
    some ⟨.phStart, 0b001#3, false, none, [.startGen, .loadSrAddr, .loadCnt 8#8, .clearIfg], false⟩
  else if p = 0b001#3 then
    some ⟨.phAddrAck, 0b010#3, false, none, [.dirIn, .loadCnt 1#8, .clearIfg], false⟩
  else if p = 0b010#3 then
    (if n then some ⟨.phAddrCheckNack, 0b000#3, false, some true, [.dirOut, .stopGen, .clearIfg], true⟩
     else some ⟨.phAddrCheckAck, 0b011#3, true, some false, [.dirOut, .loadSrPayload, .loadCnt 8#8, .clearIfg], false⟩)
  else if p = 0b011#3 then
    some ⟨.phDataAck, 0b100#3, false, none, [.dirIn, .loadCnt 1#8, .clearIfg], false⟩
  else if p = 0b100#3 then
    (if n then some ⟨.phDataCheckNack, 0b000#3, false, some true, [.dirOut, .stopGen, .clearIfg], true⟩
     else if l then some ⟨.phDataCheckLast, 0b000#3, false, some false, [.dirOut, .stopGen, .clearIfg], true⟩
     else some ⟨.phDataCheckNext, 0b011#3, true, some false, [.dirOut, .loadSrPayload, .loadCnt 8#8, .clearIfg], false⟩)
  else none

/-- One action carried out; a payload read has no value at or above `LEN` (R61). -/
def perform (s : State) : Action → Option State
  | .startGen => some (startGen s)
  | .stopGen => some (stopGen s)
  | .dirOut => some (dirOut s)
  | .dirIn => some (dirIn s)
  | .loadSrAddr => some (loadSr s.addrByte s)
  | .loadSrPayload =>
    match payloadOperand s with
    | some b => some (loadSr b { s with reads := s.reads ++ [s.cursor] })
    | none => none
  | .loadCnt n => some (loadCnt n s)
  | .clearIfg => some (clearIfg s)

/-- The actions of a row in order. -/
def performAll : List Action → State → Option State
  | [], s => some s
  | a :: rest, s =>
    match perform s a with
    | some t => performAll rest t
    | none => none

/-- A row carried out: its actions, then the writes of the transaction state the other columns name; a row that ends
the transaction also sets `BUSY <- 0`, and the port `wake` fires. -/
def carryOut (r : Row) (s : State) : Option State :=
  match performAll r.actions s with
  | none => none
  | some t =>
    some { t with
      phase := r.nextPhase,
      cursor := if r.cursorUp then (t.cursor + 1) % 2 ^ t.lenw else t.cursor,
      err := r.errTo.getD t.err,
      busy := if r.ends then false else t.busy,
      wakes := if r.ends && t.busy then t.wakes + 1 else t.wakes }

end Sys2Proof.Machine
end

