-- ==== Sys2Proof/Safety.lean ====
section
/-! DEFINITION. What a sound state and a sound run are, in the terms the claims use: the invariants of 10_state.md R37,
rest and the ways a transaction ends (R226, R197), the grammar of the wire trace (R73, R163), and framing conditions in
the record of events (R74, R76). -/

namespace Sys2Proof.Machine

/-! ## The invariants of R37 -/

/-- R37 (i): `PHASE` is one of the five codes. -/
abbrev PhaseLegal (s : State) : Prop :=
  s.phase = 0b000#3 ∨ s.phase = 0b001#3 ∨ s.phase = 0b010#3 ∨ s.phase = 0b011#3 ∨ s.phase = 0b100#3

/-- The idle pins: both lines released by the block, the latches high, the direction input. -/
abbrev PinsIdle (s : State) : Prop := s.oe = false ∧ s.sdaq = true ∧ s.sclq = true

/-- R37 (iii): what holds when no transaction is in flight. -/
abbrev IdleWhenFree (s : State) : Prop :=
  s.busy = false → s.phase = 0b000#3 ∧ s.ifg = false ∧ cnt s = 0#5 ∧ PinsIdle s

/-- R37 (iv), (v): the count is at most 8, and 0 while a completion is pending. -/
abbrev CountBounded (s : State) : Prop := cnt s ≤ 8#5 ∧ (s.ifg = true → cnt s = 0#5)

/-- R37 (vi): in flight the length is legal and the cursor within it. -/
abbrev CursorInRange (s : State) : Prop := s.busy = true → 1 ≤ s.len ∧ s.cursor ≤ s.len

/-- R37 (vii): a transaction at its start has its completion pending and the lines released. -/
abbrev StartPending (s : State) : Prop :=
  s.phase = 0b000#3 → s.busy = true → s.ifg = true ∧ s.sclq = true ∧ s.sdaq = true

/-- R37 (viii): past the start a transaction is in flight, and the clock line is held low once its first bit step has
been taken, that is, everywhere but before the eight bits of the address byte. -/
abbrev ClockHeld (s : State) : Prop :=
  s.phase ≠ 0b000#3 →
    s.busy = true ∧ (s.sclq = false ∨ (s.phase = 0b001#3 ∧ s.ifg = false ∧ cnt s = 8#5))

/-- R37 (ix): the flag bits are as reset left them. -/
abbrev FlagsKept (s : State) : Prop := flagBits s = s.flagsReset

/-- The invariants of R37, (i) to (ix). -/
abbrev StepBoundary (s : State) : Prop :=
  PhaseLegal s ∧ s.ge = false ∧ IdleWhenFree s ∧ CountBounded s ∧ CursorInRange s ∧ StartPending s ∧ ClockHeld s ∧
    FlagsKept s

/-- What the invariants of R37 rest on, read from the phase operations (DEDUCED): no strobe is presented by itself; up
to the address check no payload byte has been loaded, after it at least one has; the direction and the count of the bit
group are those the last operation programmed; in flight a completion is pending or a bit is still to come. -/
abbrev Sequenced (s : State) : Prop :=
  s.strobe = none ∧
  (s.busy = true → s.phase = 0b000#3 ∨ s.phase = 0b001#3 ∨ s.phase = 0b010#3 → s.cursor = 0) ∧
  (s.phase = 0b011#3 ∨ s.phase = 0b100#3 → s.cursor ≠ 0) ∧
  (s.phase = 0b000#3 → s.oe = false) ∧
  (s.phase = 0b001#3 ∨ s.phase = 0b011#3 → s.oe = true) ∧
  (s.phase = 0b010#3 ∨ s.phase = 0b100#3 → s.oe = false ∧ cnt s ≤ 1#5) ∧
  (s.busy = true → s.ifg = false → cnt s ≠ 0#5)

/-- The two `LENW`-bit registers hold `LENW`-bit values (R22, R24). -/
abbrev InWidth (s : State) : Prop := s.cursor < 2 ^ s.lenw ∧ s.len < 2 ^ s.lenw

/-- The invariant that every step keeps. -/
abbrev BlockInv (s : State) : Prop := StepBoundary s ∧ Sequenced s ∧ InWidth s

/-- `ADDRBYTE[0]` is 0, write (R23, R82). -/
abbrev WriteOnly (s : State) : Prop := s.addrByte.getLsbD 0 = false

/-! ## Runs -/

/-- `n` steps, stopping at the first fault or refusal. -/
def runFor : Nat → State → Host.Outcome State Fault Refusal
  | 0, s => .next s
  | n + 1, s =>
    match step s with
    | .next t => runFor n t
    | .fault r => .fault r
    | .refused r => .refused r

/-- The host has no step of its own: nothing left to do, or blocked until `BUSY` is 0 (R33, R142). -/
def hostQuiet (s : State) : Bool :=
  match s.script with
  | [] => true
  | .wait :: _ => s.busy
  | .readErr :: _ => s.busy
  | _ :: _ => false

/-- Nothing outside the block is due: reset released, no pin change scheduled, no strobe, the host without a step. -/
abbrev BlockAlone (s : State) : Prop :=
  s.rst = false ∧ s.pins = [] ∧ s.strobe = none ∧ hostQuiet s = true

/-! ## Rest and end (R226) -/

/-- No agent of the block has an enabled step. -/
abbrev AtRest (s : State) : Prop := s.ifg = false ∧ cnt s = 0#5

/-- A run that has finished well. -/
abbrev Final (s : State) : Prop := AtRest s ∧ s.busy = false

/-! ## How a transaction ends (R197) -/

/-- Every way a transaction can end; `dataNack k` is a refusal of the k-th data byte. -/
inductive Ending where
  | success
  | addressNack
  | dataNack (k : Nat)
  | hang
  | reset
  deriving DecidableEq, Repr

/-- How the step from `s` to `t` ends the transaction in flight in `s`, where it does: with `P` emitted, by `ERR` and by
`CURSOR` as the count of bytes sent, success only where it is all `LEN` of them (R197 (1) to (3), R160, R181); without
`P`, by reset (R197 (5), R211). -/
def endOfStep (s t : State) : Option Ending :=
  if s.busy = true ∧ t.busy = false then
    (if wire t = wire s ++ [.stop] then
      (if t.err then (if t.cursor = 0 then some .addressNack else some (.dataNack t.cursor))
       else if t.cursor = t.len then some .success
       else none)
     else if t.rst then some .reset
     else none)
  else none

/-- The run from `s` is in flight at each of its first `n` steps and after them. -/
def InFlightFor (n : Nat) (s : State) : Prop := ∀ m, m ≤ n → ∃ t, runFor m s = .next t ∧ t.busy = true

/-- The transaction in flight in `s` hangs: `BUSY` is 1 for ever and no `P` is emitted (R197 (4), R195). -/
def Hangs (s : State) : Prop :=
  ∀ n, ∃ t, runFor n s = .next t ∧ t.busy = true ∧ (wire t).count .stop = (wire s).count .stop

/-- The transaction in flight in `s` ends in the way `e`. -/
def EndsAs (s : State) (e : Ending) : Prop :=
  (e = .hang ∧ Hangs s) ∨
    ∃ n t u, InFlightFor n s ∧ runFor n s = .next t ∧ step t = .next u ∧ endOfStep t u = some e

/-! ## The grammar of the wire trace (R73, R163) -/

/-- How far a trace has come; `k` counts the data bytes begun. -/
inductive WireState where
  /-- No transaction open. -/
  | idle
  /-- `n` bits of a byte sent, fewer than 8. -/
  | inByte (n k : Nat)
  /-- Eight bits sent, the acknowledge slot to come. -/
  | ackDue (k : Nat)
  /-- The acknowledge slot read. -/
  | acked (nack : Bool) (k : Nat)
  deriving DecidableEq, Repr

/-- One symbol more: `S T^8 R (T^8 R)^k P`, going on only after an acknowledge, and stopping after the address only
where it was refused. -/
def WireState.next : WireState → Sym → Option WireState
  | .idle, .start => some (.inByte 0 0)
  | .inByte n k, .tx _ => some (if n = 7 then .ackDue k else .inByte (n + 1) k)
  | .ackDue k, .rx b => some (.acked b k)
  | .acked false k, .tx _ => some (.inByte 1 (k + 1))
  | .acked true _, .stop => some .idle
  | .acked false (_ + 1), .stop => some .idle
  | _, _ => none

/-- A whole trace read, from a state. -/
def WireState.run : WireState → List Sym → Option WireState
  | w, [] => some w
  | w, y :: rest =>
    match w.next y with
    | some w' => w'.run rest
    | none => none

/-- How far the trace has come, read off the block's own registers. -/
def wireStateOf (s : State) : WireState :=
  if s.busy = false ∨ s.phase = 0b000#3 then .idle
  else if s.phase = 0b001#3 then
    (if s.ifg then .ackDue 0 else .inByte (8 - (cnt s).toNat) 0)
  else if s.phase = 0b010#3 then
    (if s.ifg then .acked (nack s) 0 else .ackDue 0)
  else if s.phase = 0b011#3 then
    (if s.ifg then .ackDue s.cursor
     else if cnt s = 8#5 then .acked false (s.cursor - 1)
     else .inByte (8 - (cnt s).toNat) s.cursor)
  else
    (if s.ifg then .acked (nack s) s.cursor else .ackDue s.cursor)

/-- The trace is a beginning of transactions of the form of R163, and has come as far as the registers say. -/
abbrev TraceShaped (s : State) : Prop := WireState.run .idle (wire s) = some (wireStateOf s)

/-! ## Framing conditions in the record of events (R74, R76) -/

/-- The condition a change of the block's pulls makes on the wire, the target releasing both lines (R75): SDA falling
while SCL is high is a start, rising a stop. -/
def condition (before after : Level) : Option Sym :=
  if before.sclPull = false ∧ after.sclPull = false then
    (if before.sdaPull = false ∧ after.sdaPull = true then some .start
     else if before.sdaPull = true ∧ after.sdaPull = false then some .stop
     else none)
  else none

/-- Both lines released by the block. -/
def released : Level := ⟨false, false⟩

/-- A symbol that is a framing condition. -/
def Sym.isCondition : Sym → Bool
  | .start => true
  | .stop => true
  | .tx _ => false
  | .rx _ => false

/-- How far a record of events has been read: the pulls at that point, and the symbol of a condition just made. -/
structure Framing where
  level : Level
  due : Option Sym
  deriving DecidableEq, Repr

/-- One event more: the symbol of a condition follows at once on the pin change that makes it, and stands nowhere
else. -/
def Framing.next : Framing → Event → Option Framing
  | ⟨l, none⟩, .pins m => some ⟨m, condition l m⟩
  | ⟨_, some _⟩, .pins _ => none
  | ⟨l, none⟩, .sym y => if y.isCondition then none else some ⟨l, none⟩
  | ⟨l, some c⟩, .sym y => if y = c then some ⟨l, none⟩ else none

/-- A whole record read, from a state. -/
def Framing.run : Framing → List Event → Option Framing
  | f, [] => some f
  | f, e :: rest =>
    match f.next e with
    | some g => g.run rest
    | none => none

/-- Conditions arise exactly where the trace records them, each symbol right after its pin change (R76, R6), and the
record ends in the present pulls. -/
abbrev FramedAsRecorded (s : State) : Prop := Framing.run ⟨released, none⟩ s.events = some ⟨level s, none⟩

/-! ## A transaction seen whole (R63, R163) -/

/-- The eight transmitted bits of a byte, most significant first (R63). -/
def byteBits (b : Byte) : List Sym :=
  [.tx (b.getLsbD 7), .tx (b.getLsbD 6), .tx (b.getLsbD 5), .tx (b.getLsbD 4), .tx (b.getLsbD 3), .tx (b.getLsbD 2),
   .tx (b.getLsbD 1), .tx (b.getLsbD 0)]

/-- The trace of `n` data bytes from index `i` on, each acknowledged. -/
def dataTrace (mem : List Host.Cell) : Nat → Nat → List Sym
  | _, 0 => []
  | i, n + 1 => byteBits (Memory.read mem i) ++ [.rx false] ++ dataTrace mem (i + 1) n

/-- The trace of a transaction in which every slot is acknowledged. -/
def transactionTrace (mem : List Host.Cell) (a : Addr) (len : Nat) : List Sym :=
  [.start] ++ byteBits (frameAddress a) ++ [.rx false] ++ dataTrace mem 0 len ++ [.stop]

/-- A bit group's worth of answers: the clock rises at each of the first `n`. -/
def clocked : Nat → List Answer → Prop
  | 0, _ => True
  | _ + 1, [] => False
  | n + 1, a :: rest => a.clockRises = true ∧ clocked n rest

/-- A byte and its slot answered: eight clocked answers with any level, then a clocked acknowledge. -/
def byteAcked (o : List Answer) : Prop :=
  clocked 9 o ∧ (match o.drop 8 with
    | a :: _ => a.tSda = false
    | [] => False)

/-- `n` bytes and their slots answered, all acknowledged. -/
def allAcked : Nat → List Answer → Prop
  | 0, _ => True
  | n + 1, o => byteAcked o ∧ allAcked n (o.drop 9)

end Sys2Proof.Machine
end

