-- ==== Sys2Proof/Certificates/Slice0/Obligations.lean ====
section
/-! DEFINITION. The statements for the provers, from the numbered rules of spec/. A statement of an operation's result
is an equation `exec i s = .next t` whose record `t` names every field that changes; every field it does not name is
unchanged, the payload space among them. The fields `events`, `reads`, `wakes`, `errReads`, `rxReads` are the model's
records (notes/assumptions/16.md); `events` holds pin changes and symbols in one order (00_scope.md R6), and `wire` is
the symbols in it. -/

open Sys2Proof Sys2Proof.Machine

/-! ## Reset -/

/-- R40, R210: the values the spec states for the state after reset, the lines released, the trace empty. The registers
the spec gives no value (entry 3) are not mentioned. -/
def Obligations.ResetStateHasStatedValues : Prop :=
  State.reset.phase = 0b000#3 ∧ State.reset.busy = false ∧ State.reset.ifg = false ∧ cnt State.reset = 0#5 ∧
  flagBits State.reset = State.reset.flagsReset ∧ State.reset.oe = false ∧ State.reset.ge = false ∧
  State.reset.sdaq = true ∧ State.reset.sclq = true ∧ State.reset.err = false ∧
  level State.reset = released ∧ wire State.reset = []

/-- R210, R211: reset in any state, in flight too, leaves the stated values, both lines released, no `P`, and no wake.
That what is outside the block stays is the model's choice, R211 leaving it outside (entry 17), and so is which records
are emptied (entry 16). -/
def Obligations.ResetReachesIdleFromEveryState : Prop :=
  ∀ s : State, ∃ t, exec .reset s = .next t ∧
    t.phase = 0b000#3 ∧ t.busy = false ∧ t.ifg = false ∧ cnt t = 0#5 ∧ flagBits t = s.flagsReset ∧ t.oe = false ∧
    t.ge = false ∧ t.sdaq = true ∧ t.sclq = true ∧ t.err = false ∧ level t = released ∧ wire t = [] ∧
    t = { s with
      phase := t.phase, cursor := t.cursor, addrByte := t.addrByte, len := t.len, sr := t.sr, cntreg := t.cntreg,
      oe := t.oe, ge := t.ge, sdaq := t.sdaq, sclq := t.sclq, ifg := t.ifg, err := t.err, busy := t.busy,
      events := [], reads := [] }

/-- R184, R210: reset has priority over every other event. -/
def Obligations.ResetPrecedesEveryEvent : Prop :=
  ∀ s : State, (samplePins s).rst = true → step s = exec .reset (samplePins s)

/-- The state after reset meets every invariant stated below. That `ADDRBYTE[0]` is 0 there rests on the value the
model chose for `ADDRBYTE` (entry 3). -/
def Obligations.ResetStateIsSound : Prop :=
  BlockInv State.reset ∧ TraceShaped State.reset ∧ FramedAsRecorded State.reset ∧ Memory.wf State.reset.lenw State.reset.payload = true ∧
  WriteOnly State.reset

/-! ## Primitives (R100 to R111) -/

/-- R100, R101: the direction, and with it the pull on SDA. -/
def Obligations.DirectionPrimitives : Prop :=
  ∀ s : State,
    exec .dirOut s = .next { s with oe := true, events := s.events ++ [.pins ⟨!s.sdaq, !s.sclq⟩] } ∧
    exec .dirIn s = .next { s with oe := false, events := s.events ++ [.pins ⟨false, !s.sclq⟩] }

/-- R102: `LOAD_SR` writes `SR`, and `SDAQ` only while the latch is transparent. -/
def Obligations.LoadShiftRegisterFollowsLatch : Prop :=
  ∀ (s : State) (v : Byte),
    (s.ge = false → exec (.loadSr v) s = .next { s with sr := v }) ∧
    (s.ge = true → exec (.loadSr v) s =
      .next { s with
        sr := v, sdaq := v.getLsbD 7, events := s.events ++ [.pins ⟨s.oe && !v.getLsbD 7, !s.sclq⟩] })

/-- R103, R219: `LOAD_CNT` sets the count to the low five bits of its operand and preserves the flag bits. -/
def Obligations.LoadCountKeepsFlagBits : Prop :=
  ∀ (s : State) (n : Byte), ∃ t, exec (.loadCnt n) s = .next t ∧
    cnt t = n.extractLsb' 0 5 ∧ flagBits t = flagBits s ∧ t = { s with cntreg := t.cntreg }

/-- R104: the result of `READ_RX` is `SR`, with no side effect on the block. That the result is kept in a record is the
model's choice (entry 16). -/
def Obligations.ReadReceivedBitsHasNoSideEffect : Prop :=
  ∀ s : State, exec .readRx s = .next { s with rxReads := s.rxReads ++ [s.sr] }

/-- R105, R106: raising and clearing the completion flag. -/
def Obligations.CompletionFlagPrimitives : Prop :=
  ∀ s : State,
    exec .raiseIfg s = .next { s with ifg := true } ∧ exec .clearIfg s = .next { s with ifg := false }

/-- R107, R108, R109: the latch opened takes SDA to the level of `SR[7]`, closed keeps it; the clock released. -/
def Obligations.LatchAndClockPrimitives : Prop :=
  ∀ s : State,
    exec .latchOpen s =
      .next { s with
        ge := true, sdaq := s.sr.getLsbD 7, events := s.events ++ [.pins ⟨s.oe && !s.sr.getLsbD 7, !s.sclq⟩] } ∧
    exec .latchClose s = .next { s with ge := false } ∧
    exec .sclRelease s = .next { s with sclq := true, events := s.events ++ [.pins ⟨s.oe && !s.sdaq, false⟩] }

/-- R110: from the precondition, exactly one start condition arises on the lines, SDA is left low under a high clock,
and one `S` is emitted, right after the fall of SDA. -/
def Obligations.StartConditionGenerated : Prop :=
  ∀ s : State, s.sclq = true → s.sdaq = true → s.ge = false →
    exec .startGen s =
      .next { s with
        sr := 0x00#8, oe := true, ge := false, sdaq := false,
        events := s.events ++ [.pins ⟨false, false⟩, .pins ⟨true, false⟩, .sym .start] } ∧
    Framing.run ⟨level s, none⟩ [.pins ⟨false, false⟩, .pins ⟨true, false⟩, .sym .start] = some ⟨⟨true, false⟩, none⟩

/-- R111: from the precondition, whatever SDA was, exactly one stop condition arises on the lines, they are left
released and the direction input, and one `P` is emitted, right after the rise of SDA. -/
def Obligations.StopConditionGenerated : Prop :=
  ∀ s : State, s.oe = true → s.sclq = false → s.ge = false →
    exec .stopGen s =
      .next { s with
        sr := 0xFF#8, oe := false, ge := false, sdaq := true, sclq := true,
        events := s.events ++
          [.pins ⟨true, true⟩, .pins ⟨true, false⟩, .pins ⟨false, false⟩, .sym .stop, .pins ⟨false, false⟩] } ∧
    Framing.run ⟨level s, none⟩
        [.pins ⟨true, true⟩, .pins ⟨true, false⟩, .pins ⟨false, false⟩, .sym .stop, .pins ⟨false, false⟩] =
      some ⟨⟨false, false⟩, none⟩

/-- R167: the stop condition, `PHASE <- START`, `BUSY <- 0`; the wake fires once where a transaction was in flight;
`CURSOR`, `ADDRBYTE`, `LEN`, `ERR` and `CNTREG` stay. -/
def Obligations.StopActionsEndTransaction : Prop :=
  ∀ s : State, s.oe = true → s.sclq = false → s.ge = false →
    exec .stopActions s =
      .next { s with
        sr := 0xFF#8, oe := false, ge := false, sdaq := true, sclq := true, phase := 0b000#3, busy := false,
        wakes := if s.busy then s.wakes + 1 else s.wakes,
        events := s.events ++
          [.pins ⟨true, true⟩, .pins ⟨true, false⟩, .pins ⟨false, false⟩, .sym .stop, .pins ⟨false, false⟩] }

/-! ## Phase operations (R150 to R161) -/

/-- R153: `PH.START` emits `S`, loads the address byte, programs eight bits, and clears the flag. -/
def Obligations.StartPhaseSendsAddressByte : Prop :=
  ∀ s : State, s.ifg = true → s.gie = true → s.ge = false →
    ∃ t, exec .phStart s = .next t ∧ cnt t = 8#5 ∧ flagBits t = flagBits s ∧
      t = { s with
        sr := s.addrByte, oe := true, ge := false, sdaq := false, cntreg := t.cntreg, phase := 0b001#3, ifg := false,
        events := s.events ++ [.pins ⟨!s.sdaq, !s.sclq⟩, .pins ⟨true, !s.sclq⟩, .sym .start] }

/-- R154, R156: the two acknowledge phases turn to input, program one bit, and go on to their CHECK phase. -/
def Obligations.AckPhasesOpenOneBitSlot : Prop :=
  ∀ s : State, s.ifg = true → s.gie = true →
    (∃ t, exec .phAddrAck s = .next t ∧ cnt t = 1#5 ∧ flagBits t = flagBits s ∧
      t = { s with
        oe := false, cntreg := t.cntreg, phase := 0b010#3, ifg := false, events := s.events ++ [.pins ⟨false, !s.sclq⟩] }) ∧
    (∃ t, exec .phDataAck s = .next t ∧ cnt t = 1#5 ∧ flagBits t = flagBits s ∧
      t = { s with
        oe := false, cntreg := t.cntreg, phase := 0b100#3, ifg := false, events := s.events ++ [.pins ⟨false, !s.sclq⟩] })

/-- R155, R158, R61, R168: after an acknowledge the payload byte at the cursor is loaded, the cursor advances, eight
bits are programmed, and `ERR` is cleared. -/
def Obligations.AcknowledgedPhasesLoadPayloadByte : Prop :=
  ∀ (i : Instr) (s : State), i = .phAddrCheckAck ∨ i = .phDataCheckNext →
    s.ifg = true → s.gie = true → s.ge = false → s.cursor < s.len → s.len < 2 ^ s.lenw →
    ∃ t, exec i s = .next t ∧ cnt t = 8#5 ∧ flagBits t = flagBits s ∧
      t = { s with
        oe := true, err := false, sr := Memory.read s.payload s.cursor, cursor := s.cursor + 1,
        reads := s.reads ++ [s.cursor], cntreg := t.cntreg, phase := 0b011#3, ifg := false,
        events := s.events ++ [.pins ⟨!s.sdaq, !s.sclq⟩] }

/-- R61: a payload read at or above `LEN` has no value; the two operations that read stop there. -/
def Obligations.PayloadReadOutOfRangeFaults : Prop :=
  ∀ (i : Instr) (s : State), i = .phAddrCheckAck ∨ i = .phDataCheckNext →
    s.ifg = true → s.gie = true → s.len ≤ s.cursor → exec i s = .fault .payloadOutOfRange

/-- R157, R160, R180, R181: a not-acknowledge, of the address or of a data byte, sets `ERR`, performs the stop actions
and keeps the cursor; the two are handled identically. -/
def Obligations.RefusedByteEndsTransaction : Prop :=
  ∀ (i : Instr) (s : State), i = .phAddrCheckNack ∨ i = .phDataCheckNack →
    s.ifg = true → s.gie = true → s.ge = false →
    exec i s =
      .next { s with
        err := true, sr := 0xFF#8, oe := false, sdaq := true, sclq := true, phase := 0b000#3, busy := false,
        ifg := false, wakes := if s.busy then s.wakes + 1 else s.wakes,
        events := s.events ++
          [.pins ⟨!s.sdaq, !s.sclq⟩, .pins ⟨true, !s.sclq⟩, .pins ⟨true, false⟩, .pins ⟨false, false⟩, .sym .stop,
            .pins ⟨false, false⟩] }

/-- R159: the acknowledge of the last byte clears `ERR` and performs the stop actions. -/
def Obligations.LastAcknowledgeEndsTransaction : Prop :=
  ∀ s : State, s.ifg = true → s.gie = true → s.ge = false →
    exec .phDataCheckLast s =
      .next { s with
        err := false, sr := 0xFF#8, oe := false, sdaq := true, sclq := true, phase := 0b000#3, busy := false,
        ifg := false, wakes := if s.busy then s.wakes + 1 else s.wakes,
        events := s.events ++
          [.pins ⟨!s.sdaq, !s.sclq⟩, .pins ⟨true, !s.sclq⟩, .pins ⟨true, false⟩, .pins ⟨false, false⟩, .sym .stop,
            .pins ⟨false, false⟩] }

/-- R150, R183: no operation of the controller runs unless a completion is pending and enabled; nothing is lost. That
an operation asked for outside its enabling condition changes nothing is the model's reading (entry 11). -/
def Obligations.PhaseNeedsEnabledCompletion : Prop :=
  ∀ (i : Instr) (s : State),
    i ∈ [Instr.phStart, .phAddrAck, .phAddrCheckAck, .phAddrCheckNack, .phDataAck, .phDataCheckNext,
      .phDataCheckLast, .phDataCheckNack] →
    s.ifg = false ∨ s.gie = false → exec i s = .next s

/-- R161: the reserved dispatch words are those with a phase code 101, 110 or 111; dispatching one faults; no operation
writes such a code to `PHASE`, and reset does not leave one there. -/
def Obligations.ReservedWordsFaultAndAreUnreachable : Prop :=
  (∀ w : BitVec 5,
    (decodeDw w = .reserved101 ∨ decodeDw w = .reserved11x) ↔
      (w.extractLsb' 2 3 = 0b101#3 ∨ w.extractLsb' 2 3 = 0b110#3 ∨ w.extractLsb' 2 3 = 0b111#3)) ∧
  (∀ s : State, exec .reserved101 s = .fault .reservedDispatch ∧ exec .reserved11x s = .fault .reservedDispatch) ∧
  (∀ (i : Instr) (s t : State), PhaseLegal s → exec i s = .next t → PhaseLegal t) ∧
  PhaseLegal State.reset

/-! ## Bit steps (R120 to R127) -/

/-- R121, R126: a transmit bit step. The bit driven is `SR[7]`; the sample is that bit and the target's level; `SR`
shifts left with the sample entering at bit 0; the count goes down by one; the clock is pulsed and left low; the flag
is raised by the step that brings the count to 0. -/
def Obligations.TransmitBitStep : Prop :=
  ∀ s : State, seqEnabled s = true → s.oe = true → (answer s).clockRises = true →
    ∃ t, exec .txBit s = .next t ∧ cnt t = cnt s - 1#5 ∧ flagBits t = flagBits s ∧
      t.sr.getLsbD 0 = (s.sr.getLsbD 7 && (answer s).tSda) ∧ (∀ i, i < 7 → t.sr.getLsbD (i + 1) = s.sr.getLsbD i) ∧
      t = { s with
        sclq := false, sdaq := s.sr.getLsbD 7, sr := t.sr, cntreg := t.cntreg, ifg := cnt s == 1#5,
        oracle := (afterAnswer s).oracle, draws := (afterAnswer s).draws,
        events := s.events ++
          [.pins ⟨!s.sdaq, true⟩, .pins ⟨!s.sr.getLsbD 7, true⟩, .pins ⟨!s.sr.getLsbD 7, false⟩,
            .sym (.tx (s.sr.getLsbD 7)), .pins ⟨!s.sr.getLsbD 7, true⟩] }

/-- R122, R126: a receive bit step. The block does not pull SDA; the sample is the target's level. That `SDAQ` is written
here too follows R122, R29 and R101 over the wording of D9 (entry 30). -/
def Obligations.ReceiveBitStep : Prop :=
  ∀ s : State, seqEnabled s = true → s.oe = false → (answer s).clockRises = true →
    ∃ t, exec .rxBit s = .next t ∧ cnt t = cnt s - 1#5 ∧ flagBits t = flagBits s ∧
      t.sr.getLsbD 0 = (answer s).tSda ∧ (∀ i, i < 7 → t.sr.getLsbD (i + 1) = s.sr.getLsbD i) ∧
      t = { s with
        sclq := false, sdaq := s.sr.getLsbD 7, sr := t.sr, cntreg := t.cntreg, ifg := cnt s == 1#5,
        oracle := (afterAnswer s).oracle, draws := (afterAnswer s).draws,
        events := s.events ++
          [.pins ⟨false, true⟩, .pins ⟨false, true⟩, .pins ⟨false, false⟩, .sym (.rx (answer s).tSda),
            .pins ⟨false, true⟩] }

/-- R125: where the oracle withholds the clock the bit step is not taken: nothing changes but that the answer is used,
one taken from the list. With no answer lined up the free value lets the clock rise or else the same holds, the draw
being counted. -/
def Obligations.WithheldClockChangesNothing : Prop :=
  ∀ (i : Instr) (s : State), (i = .txBit ∧ s.oe = true) ∨ (i = .rxBit ∧ s.oe = false) → seqEnabled s = true →
    (∀ a rest, s.oracle = a :: rest → a.clockRises = false → exec i s = .next { s with oracle := rest }) ∧
    (s.oracle = [] → Config.targetScl s.draws = true ∨ exec i s = .next { s with draws := s.draws + 1 })

/-- R91, R120: while the sequencer is enabled and nothing else is due, the step is the operation that the single bit
`OE` selects. -/
def Obligations.DirectionSelectsBitOperation : Prop :=
  ∀ s : State, BlockAlone s → s.ifg = false → cnt s ≠ 0#5 →
    decode (.seq (BitVec.ofBool s.oe)) = .ok (if s.oe then .txBit else .rxBit) ∧
    (s.oe = true → step s = exec .txBit s) ∧ (s.oe = false → step s = exec .rxBit s)

/-- R120: no bit step while a completion is pending or the count is 0, nor in the direction `OE` does not select. That
it then changes nothing is the model's reading (entry 11). -/
def Obligations.BitStepNeedsEnabledSequencer : Prop :=
  ∀ s : State,
    (s.ifg = true ∨ cnt s = 0#5 ∨ s.oe = false → exec .txBit s = .next s) ∧
    (s.ifg = true ∨ cnt s = 0#5 ∨ s.oe = true → exec .rxBit s = .next s)

/-- R123: the bit step that takes the count from 1 to 0 raises the completion flag, of either kind of group, and no
other bit step does; the kick-off raises the same flag. -/
def Obligations.LastBitRaisesCompletion : Prop :=
  (∀ (i : Instr) (s t : State), i = .txBit ∨ i = .rxBit → exec i s = .next t → s.ifg = false →
    (t.ifg = true ↔ cnt s = 1#5 ∧ cnt t = 0#5)) ∧
  (∀ (a : Addr) (len : Nat) (s t : State), exec (.wt a len) s = .next t → t.ifg = true)

/-- R124: eight bit steps after a transmit group was programmed send the byte in `SR` from bit 7 to bit 0, then the
completion is pending, the count 0, the clock low; where the target releases the line `SR` is the byte again. -/
def Obligations.TransmitGroupSendsByte : Prop :=
  ∀ s : State, BlockAlone s → s.ifg = false → cnt s = 8#5 → s.oe = true → clocked 8 s.oracle →
    ∃ t, runFor 8 s = .next t ∧ t.ifg = true ∧ cnt t = 0#5 ∧ flagBits t = flagBits s ∧ t.sclq = false ∧
      wire t = wire s ++ byteBits s.sr ∧ t.oracle = s.oracle.drop 8 ∧
      ((∀ a ∈ s.oracle.take 8, a.tSda = true) → t.sr = s.sr) ∧
      t = { s with
        sr := t.sr, cntreg := t.cntreg, sdaq := t.sdaq, sclq := t.sclq, ifg := t.ifg, oracle := t.oracle,
        events := t.events }

/-! ## The host (R140 to R145) -/

/-- R140: the kick-off. It puts nothing on the wire and writes nothing of the peripheral but the flag; `gie` is not
asked for (R141 (c)). -/
def Obligations.KickOffLoadsDescriptor : Prop :=
  ∀ (a : Addr) (len : Nat) (s : State), s.busy = false → len ≠ 0 → len < 2 ^ s.lenw →
    ∃ t, exec (.wt a len) s = .next t ∧ t.addrByte.extractLsb' 1 7 = a ∧ t.addrByte.getLsbD 0 = false ∧
      t = { s with
        addrByte := t.addrByte, len := len, cursor := 0, phase := 0b000#3, ifg := true, busy := true }

/-- R141, R213, R216: a command in flight and a length of 0 are faults, and a length above `MAXLEN` cannot be presented,
which the model refuses by name (entry 1). That `BUSY` is looked at before the length 0 is the model's reading
(entry 12), the rules ordering nothing. -/
def Obligations.CommandDutiesFault : Prop :=
  ∀ (i : Instr) (a : Addr) (len : Nat) (s : State), i = .wt a len ∨ i = .writeTransaction a len →
    (2 ^ s.lenw ≤ len → exec i s = .refused .widerThanPort) ∧
    (len < 2 ^ s.lenw → s.busy = true → exec i s = .fault .commandInFlight) ∧
    (s.busy = false → len = 0 → exec i s = .fault .zeroLength)

/-- R93: `WRITE_TRANSACTION` is `WT` and then `WAIT`: after the kick-off the host's next statement is `WAIT`. That the
pending `WAIT` is kept in the script is the model's form (entry 21). -/
def Obligations.WriteTransactionIsKickOffThenWait : Prop :=
  ∀ (a : Addr) (len : Nat) (s : State), s.busy = false → len ≠ 0 → len < 2 ^ s.lenw →
    ∃ t, exec (.wt a len) s = .next t ∧
      exec (.writeTransaction a len) s = .next { t with script := .wait :: s.script }

/-- R142, R33: `WAIT` with `BUSY == 0` returns at once and does nothing; with `BUSY == 1` the host has no step, and the
step is the block's. That exec of `WAIT` with `BUSY == 1` puts `WAIT` back at the head of the script is the model's form
(entry 21), as is the script itself (entry 9). -/
def Obligations.WaitHoldsWhileBusy : Prop :=
  (∀ s : State, s.busy = false → exec .wait s = .next s) ∧
  (∀ s : State, s.busy = true → exec .wait s = .next { s with script := .wait :: s.script }) ∧
  (∀ (s : State) (rest : List HostOp), s.busy = true → s.script = .wait :: rest → s.rst = false → s.strobe = none →
    select s = selectBlock s)

/-- R144: `READ_ERR` gives `ERR` and changes nothing of the block; reading does not clear it. That the result is kept in
a record is the model's choice (entry 16). -/
def Obligations.ReadErrGivesIndicator : Prop :=
  ∀ s : State, exec .readErr s = .next { s with errReads := s.errReads ++ [s.err] }

/-- R145, R65: the host may change a byte of its buffer while no transaction is in flight, and only that byte changes;
in flight it is a fault. That the change is the script's next statement, taken at once, is the model's form (entry 9),
and so are the buffer's canonical list (entry 4) and the refusal of an index that the port cannot carry (entry 1). -/
def Obligations.HostChangesBufferOnlyWhenFree : Prop :=
  ∀ (i : Nat) (b : Byte) (rest : List HostOp) (s : State), s.rst = false → s.pins = [] → s.strobe = none →
    s.script = .poke i b :: rest →
    (2 ^ s.lenw ≤ i → step s = .refused .widerThanPort) ∧
    (i < 2 ^ s.lenw → s.busy = true → step s = .fault .payloadWriteInFlight) ∧
    (i < 2 ^ s.lenw → s.busy = false → Memory.wf s.lenw s.payload = true →
      ∃ t, step s = .next t ∧ Memory.wf t.lenw t.payload = true ∧
        (∀ x, Memory.read t.payload x = if x = i then b else Memory.read s.payload x) ∧
        t = { s with script := rest, payload := t.payload })

/-! ## The step -/

/-- A step runs the instruction that is chosen: the decoding of the presented word, or a host step without an encoding,
in a state that differs from the one with the pins sampled in `script` and `strobe` at most (for a host step in `script`
at most); sampling drops the head of `pins` and writes `rst` and `gie` at most. What `script` becomes is stated in
StepTakesHostStatement. The form of the step is the model's: the pin schedule (entry 5), the script (entry 9), a strobe
presented by itself (entry 10). -/
def Obligations.StepRunsChosenOperation : Prop :=
  (∀ (s t : State) (w : OpWord) (i : Instr), select (samplePins s) = .word w t → decode w = .ok i →
    step s = exec i t ∧ t = { samplePins s with script := t.script, strobe := t.strobe }) ∧
  (∀ (s t : State) (i : Instr), select (samplePins s) = .host i t →
    step s = exec i t ∧ t = { samplePins s with script := t.script }) ∧
  (∀ s : State, samplePins s =
    { s with rst := (samplePins s).rst, gie := (samplePins s).gie, pins := s.pins.tail })

/-- R150, R151: a pending and enabled completion invokes the controller with the operation that the dispatch word
selects, formed before any write. -/
def Obligations.StepInvokesDispatchedOperation : Prop :=
  ∀ s : State, BlockAlone s → s.ifg = true → s.gie = true →
    step s = exec (decodeDw (s.phase ++ BitVec.ofBool (s.sr.getLsbD 0) ++ BitVec.ofBool (s.cursor == s.len))) s

/-- R183, R226: while `gie` is 0 a completion waits, and a block at rest has no enabled step. That the step then answers
the same state is the model's stutter step (entry 28). -/
def Obligations.MaskedOrRestingBlockStays : Prop :=
  ∀ s : State, BlockAlone s → (s.ifg = true ∧ s.gie = false) ∨ AtRest s → step s = .next s

/-- The host's statements are taken from the script: a command at once, `WAIT` and `READ_ERR` when `BUSY` is 0. The
script and its order are the model's (entry 9). -/
def Obligations.StepTakesHostStatement : Prop :=
  ∀ (s : State) (rest : List HostOp), s.rst = false → s.pins = [] → s.strobe = none →
    (∀ a len, s.script = .wt a len :: rest → step s = exec (.wt a len) { s with script := rest }) ∧
    (∀ a len, s.script = .writeTransaction a len :: rest →
      step s = exec (.writeTransaction a len) { s with script := rest }) ∧
    (s.script = .wait :: rest → s.busy = false → step s = exec .wait { s with script := rest }) ∧
    (s.script = .readErr :: rest → s.busy = false → step s = exec .readErr { s with script := rest })

/-! ## Encodings (R80 to R91) -/

/-- Every operation that has an encoding decodes back from it, with every operand at every value; and a command packed
into one word, at any `LENW`, with any address and any length its port can carry, is read back and decodes to it. -/
def Obligations.DecodeOfEncodeIsIdentity : Prop :=
  (∀ (i : Instr) (w : OpWord), encode i = some w → decode w = .ok i) ∧
  (∀ (lenw len : Nat) (a : Addr), len < 2 ^ lenw → decode (unpackCmd lenw (packCmd lenw 1#1 a len)) = .ok (.wt a len))

/-- A word of the formats without don't-care bits is the encoding of what it decodes to, and a strobe word is so up to
the operand that only `LOAD_SR` and `LOAD_CNT` read. -/
def Obligations.EncodeOfDecodeIsIdentity : Prop :=
  (∀ (v : BitVec 1) (a : Addr) (len : Nat) (i : Instr), decode (.cmd v a len) = .ok i →
    encode i = some (.cmd v a len)) ∧
  (∀ (w : BitVec 1) (i : Instr), decode (.seq w) = .ok i → encode i = some (.seq w)) ∧
  (∀ (w : BitVec 1) (i : Instr), decode (.pin w) = .ok i → encode i = some (.pin w)) ∧
  (∀ (w : BitVec 10) (v : Byte) (i : Instr), decode (.prim w v) = .ok i → ∃ v', encode i = some (.prim w v'))

/-- R88: the complete map of the 32 dispatch words, by the masks of the opcode table. -/
def Obligations.DispatchMapIsTheTable : Prop :=
  ∀ w : BitVec 5,
    (decodeDw w = .phStart ↔ w &&& 0x1C#5 = 0x00#5) ∧
    (decodeDw w = .phAddrAck ↔ w &&& 0x1C#5 = 0x04#5) ∧
    (decodeDw w = .phAddrCheckAck ↔ w &&& 0x1E#5 = 0x08#5) ∧
    (decodeDw w = .phAddrCheckNack ↔ w &&& 0x1E#5 = 0x0A#5) ∧
    (decodeDw w = .phDataAck ↔ w &&& 0x1C#5 = 0x0C#5) ∧
    (decodeDw w = .phDataCheckNext ↔ w = 0x10#5) ∧
    (decodeDw w = .phDataCheckLast ↔ w = 0x11#5) ∧
    (decodeDw w = .phDataCheckNack ↔ w &&& 0x1E#5 = 0x12#5) ∧
    (decodeDw w = .reserved101 ↔ w &&& 0x1C#5 = 0x14#5) ∧
    (decodeDw w = .reserved11x ↔ w &&& 0x18#5 = 0x18#5)

/-- R90: the primitives are one-hot strobes: a strobe word selects a primitive exactly where one bit of it is set. -/
def Obligations.StrobesAreOneHot : Prop :=
  ∀ (w : BitVec 10) (v : Byte),
    (∃ i, decode (.prim w v) = .ok i) ↔ (∃ k, k < 10 ∧ w = BitVec.twoPow 10 k)

/-- Words written out from the spec's encodings decode to the operations they stand for: R81 (the source's own command
0x74, two bytes), R87, R88, R90, R91. -/
def Obligations.SpecWordsDecode : Prop :=
  decode (unpackCmd 8 0b1111010000000010) = .ok (.wt 0x74#7 2) ∧
  decode (.dw 0b00010#5) = .ok .phStart ∧ decode (.dw 0b01001#5) = .ok .phAddrCheckAck ∧
  decode (.dw 0b10011#5) = .ok .phDataCheckNack ∧ decode (.dw 0b11101#5) = .ok .reserved11x ∧
  decode (.seq 0b1#1) = .ok .txBit ∧ decode (.prim 0b0010000000#10 0xE8#8) = .ok (.loadSr 0xE8#8) ∧
  decode (.prim 0b0001000000#10 0x08#8) = .ok (.loadCnt 8#8) ∧ decode (.pin 0b1#1) = .ok .reset

/-- R82: the address byte is the 7-bit address shifted left by one in 8 bits, bit 0 being 0, write. -/
def Obligations.AddressByteFramesWriteBit : Prop :=
  ∀ a : Addr, frameAddress a = (a.zeroExtend 8) <<< 1 ∧ (frameAddress a).extractLsb' 1 7 = a ∧
    (frameAddress a).getLsbD 0 = false

/-- R35, R112, R74: the derived signals, the pin function, and the two lines as the wired-AND of the block's pull and the
target's level. -/
def Obligations.DerivedSignals : Prop :=
  ∀ s : State,
    nack s = s.sr.getLsbD 0 ∧ (last s = true ↔ s.cursor = s.len) ∧
    dw s = s.phase ++ BitVec.ofBool (nack s) ++ BitVec.ofBool (last s) ∧
    (sdaPull s = true ↔ s.oe = true ∧ s.sdaq = false) ∧ (sclPull s = true ↔ s.sclq = false) ∧
    (s.oe = false → ∀ b, sdaLine s b = b) ∧ (s.oe = true → s.sdaq = true → ∀ b, sdaLine s b = b) ∧
    (s.oe = true → s.sdaq = false → ∀ b, sdaLine s b = false) ∧
    (s.sclq = true → ∀ b, sclLine s b = b) ∧ (s.sclq = false → ∀ b, sclLine s b = false)

/-! ## Invariants that every step keeps -/

/-- R37: the invariants at every step boundary, with what they rest on (Sequenced, DEDUCED) and the width of the two
`LENW`-bit registers (R22, R24), are kept by every step. -/
def Obligations.StepKeepsBoundaryInvariants : Prop :=
  ∀ s t : State, BlockInv s → step s = .next t → BlockInv t

/-- R23, R82: `ADDRBYTE[0]` stays 0. It rests on the model's reset value of `ADDRBYTE` (entry 3) for a reset. -/
def Obligations.StepKeepsWriteBit : Prop :=
  ∀ s t : State, WriteOnly s → step s = .next t → WriteOnly t

/-- The payload space keeps its canonical form: strictly rising indices below `2^LENW`, no cell equal to what an unlisted
index reads as. The form is the model's own representation of the caller's buffer (entry 4). -/
def Obligations.StepKeepsPayloadCanonical : Prop :=
  ∀ s t : State, Memory.wf s.lenw s.payload = true → step s = .next t → Memory.wf t.lenw t.payload = true

/-- R26, R37 (ix), R7: the flag bits keep the value of `FLAGS_RESET`, whatever it is, and the two parameters never
change. -/
def Obligations.StepKeepsFlagBits : Prop :=
  ∀ s t : State, FlagsKept s → step s = .next t → FlagsKept t ∧ t.flagsReset = s.flagsReset ∧ t.lenw = s.lenw

/-- R73, R163: the wire trace is at every step boundary a beginning of transactions of the form `S T^8 R (T^8 R)^k P`,
and has come as far as the registers say. -/
def Obligations.StepKeepsTraceShape : Prop :=
  ∀ s t : State, BlockInv s → TraceShaped s → step s = .next t → TraceShaped t

/-- R76, R6: start and stop conditions arise from the block's pulls exactly where `S` and `P` are recorded, each symbol
right after the pin change that makes its condition. -/
def Obligations.StepKeepsFraming : Prop :=
  ∀ s t : State, BlockInv s → FramedAsRecorded s → step s = .next t → FramedAsRecorded t

/-! ## Rules about the whole machine -/

/-- R22, R165: `CURSOR` is 0 after a kick-off; in the two operations that load a payload byte it is below `LEN`, is the
index read, and goes up by exactly 1; no other operation touches it or reads the payload. After reset it has the model's
value (entry 3). -/
def Obligations.CursorLaw : Prop :=
  ∀ (i : Instr) (s t : State), exec i s = .next t →
    ((∃ a len, i = .wt a len ∨ i = .writeTransaction a len) → t.cursor = 0 ∧ t.reads = s.reads) ∧
    ((i = .phAddrCheckAck ∨ i = .phDataCheckNext) → s.ifg = true → s.gie = true →
      s.cursor < s.len ∧ (s.len < 2 ^ s.lenw → t.cursor = s.cursor + 1) ∧ t.reads = s.reads ++ [s.cursor]) ∧
    (i = .reset → t.cursor = State.reset.cursor ∧ t.reads = []) ∧
    ((∀ a len, i ≠ .wt a len ∧ i ≠ .writeTransaction a len) → i ≠ .reset →
      (i = .phAddrCheckAck ∨ i = .phDataCheckNext → s.ifg = false ∨ s.gie = false) →
      t.cursor = s.cursor ∧ t.reads = s.reads)

/-- R32: `ERR` is written only by the five CHECK operations, each of which sets it to the acknowledge bit it was chosen
by; reset apart, no other operation changes it. -/
def Obligations.ErrorIndicatorWriters : Prop :=
  (∀ (i : Instr) (s t : State), exec i s = .next t → t.err ≠ s.err →
    i ∈ [Instr.phAddrCheckAck, .phAddrCheckNack, .phDataCheckNext, .phDataCheckLast, .phDataCheckNack, .reset]) ∧
  (∀ (s t : State), BlockAlone s → s.ifg = true → s.gie = true → s.phase = 0b010#3 ∨ s.phase = 0b100#3 →
    step s = .next t → t.err = nack s)

/-- R62, R36: no operation writes the payload, the input ports, their schedule, the strobe or a parameter. The script
gains at most the host's own `WAIT`, which is the model's form (entry 21). What bit steps use of the oracle is said in
TransmitBitStep and ReceiveBitStep. -/
def Obligations.OperationsLeavePayloadPortsParameters : Prop :=
  ∀ (i : Instr) (s t : State), exec i s = .next t →
    t.payload = s.payload ∧ t.rst = s.rst ∧ t.gie = s.gie ∧ t.pins = s.pins ∧ t.strobe = s.strobe ∧
    t.flagsReset = s.flagsReset ∧ t.lenw = s.lenw ∧ (t.script = s.script ∨ t.script = .wait :: s.script)

/-- R73: `S` is emitted only by the start generator, `P` only by the stop generator, `T` only by `TXBIT`, `R` only by
`RXBIT`, at most one symbol an operation; reset apart, the trace only grows. -/
def Obligations.WireSymbolSources : Prop :=
  ∀ (i : Instr) (s t : State), exec i s = .next t → i ≠ .reset →
    wire t = wire s ∨
    (wire t = wire s ++ [.start] ∧ (i = .startGen ∨ i = .phStart)) ∨
    (wire t = wire s ++ [.stop] ∧
      i ∈ [Instr.stopGen, .stopActions, .phAddrCheckNack, .phDataCheckLast, .phDataCheckNack]) ∨
    (i = .txBit ∧ ∃ b, wire t = wire s ++ [.tx b]) ∨ (i = .rxBit ∧ ∃ b, wire t = wire s ++ [.rx b])

/-- R162: an invocation carries out the row of the transition table for `PHASE`, `NACK` and `LAST`; a payload read at or
above `LEN` faults (R61), and a reserved phase code, which has no row, faults (R161). -/
def Obligations.InvocationFollowsTransitionTable : Prop :=
  ∀ s : State, s.ifg = true → s.gie = true →
    match advance s.phase (nack s) (last s) with
    | some row =>
      decodeDw (dw s) = row.op ∧
      exec row.op s =
        (match carryOut row s with
          | some t => .next t
          | none => .fault .payloadOutOfRange)
    | none => exec (decodeDw (dw s)) s = .fault .reservedDispatch

/-- R143, R163, R167: a step that ends the transaction leaves the block idle with `P` as the last symbol and one wake;
`ERR` is the last acknowledge bit; and where it is 0 every payload byte had been loaded. -/
def Obligations.EndOfTransactionLeavesIdle : Prop :=
  ∀ s t : State, BlockInv s → step s = .next t → s.busy = true → t.busy = false → (samplePins s).rst = false →
    Final t ∧ t.phase = 0b000#3 ∧ PinsIdle t ∧ wire t = wire s ++ [.stop] ∧ t.wakes = s.wakes + 1 ∧
    t.err = nack s ∧ (t.err = false → t.cursor = t.len)

/-- R226: every step from a sound state leads to one that is not at rest while a transaction is in flight, and that has
phase START and idle pins where it is final. R197: from a sound state in flight, the host blocked (R33, R142), the
transaction ends in exactly one of the five ways: success, a refused address, a refused data byte, a hang, a reset. -/
def Obligations.RestAndEndings : Prop :=
  (∀ s t : State, BlockInv s → step s = .next t →
    (t.busy = true → ¬ AtRest t) ∧ (Final t → t.phase = 0b000#3 ∧ PinsIdle t)) ∧
  (∀ s : State, BlockInv s → s.busy = true → hostQuiet s = true → ∃ e, EndsAs s e ∧ ∀ e', EndsAs s e' → e' = e)

/-- R163, R164 (the source's property E1): from any idle state that meets the invariants, a transaction whose bit steps
are all clocked and whose slots are all acknowledged ends after the kick-off, `3 + 2 LEN` invocations and `9 + 9 LEN`
bit steps, with exactly the trace `S`, the address byte, each payload byte in order, each with its slot, `P`; `ERR` is
0, the payload indices were read once each in order, and the host is woken once. The kick-off counted as a step, and the
script, are the model's (entry 9). -/
def Obligations.AcknowledgedTransactionRunsToItsEnd : Prop :=
  ∀ (a : Addr) (len : Nat) (rest : List HostOp) (s : State), BlockInv s → s.busy = false → s.rst = false → s.gie = true →
    s.pins = [] → s.script = .writeTransaction a len :: rest → len ≠ 0 → len < 2 ^ s.lenw →
    allAcked (len + 1) s.oracle →
    ∃ t, runFor (1 + (3 + 2 * len) + (9 + 9 * len)) s = .next t ∧ Final t ∧ t.err = false ∧
      wire t = wire s ++ transactionTrace s.payload a len ∧ t.reads = s.reads ++ List.range len ∧
      t.wakes = s.wakes + 1 ∧ t.script = .wait :: rest ∧ t.oracle = s.oracle.drop (9 * (len + 1))

/-- R163, R166 (the source's property E2): from any idle state that meets the invariants, a transaction whose address
is refused ends after the kick-off, three invocations and nine bit steps: no data byte, no payload read, one stop,
`ERR` set, and the host woken once; nothing is sent again. The kick-off counted as a step, and the script, are the
model's (entry 9). -/
def Obligations.RefusedAddressStopsAtOnce : Prop :=
  ∀ (a : Addr) (len : Nat) (rest : List HostOp) (s : State) (x : Answer), BlockInv s → s.busy = false → s.rst = false →
    s.gie = true → s.pins = [] → s.script = .writeTransaction a len :: rest → len ≠ 0 → len < 2 ^ s.lenw →
    clocked 9 s.oracle → s.oracle[8]? = some x → x.tSda = true →
    ∃ v t, runFor (3 + 9) s = .next v ∧ step v = .next t ∧ endOfStep v t = some .addressNack ∧ Final t ∧ t.err = true ∧
      wire t = wire s ++ [.start] ++ byteBits (frameAddress a) ++ [.rx true, .stop] ∧ t.reads = s.reads ∧
      t.wakes = s.wakes + 1
end

