-- ==== Sys2Proof/Laws/Bits.lean ====
section
/-! SUPPORT. The bit fields: CNTREG (30_encoding.md R85), the shift (41_bit_sequencer.md R126), the address byte (R82). -/

namespace Sys2Proof.Machine

/-- The count field after `LOAD_CNT(n)` is the low five bits of `n`. -/
theorem count_withCount (c n : Byte) : (withCount c n).extractLsb' 0 5 = n.extractLsb' 0 5 := by
  apply BitVec.eq_of_getLsbD_eq
  intro i hi
  have : i = 0 ∨ i = 1 ∨ i = 2 ∨ i = 3 ∨ i = 4 := by omega
  rcases this with rfl | rfl | rfl | rfl | rfl <;> simp [withCount]

/-- `LOAD_CNT` keeps the flag field. -/
theorem flags_withCount (c n : Byte) : (withCount c n).extractLsb' 5 3 = c.extractLsb' 5 3 := by
  apply BitVec.eq_of_getLsbD_eq
  intro i hi
  have : i = 0 ∨ i = 1 ∨ i = 2 := by omega
  rcases this with rfl | rfl | rfl <;> simp [withCount]

/-- A bit step takes the count down by one. -/
theorem count_decCount (c : Byte) : (decCount c).extractLsb' 0 5 = c.extractLsb' 0 5 - 1#5 := by
  rw [decCount, count_withCount]
  generalize c.extractLsb' 0 5 - 1#5 = n
  revert n
  decide

/-- A bit step keeps the flag field. -/
theorem flags_decCount (c : Byte) : (decCount c).extractLsb' 5 3 = c.extractLsb' 5 3 := flags_withCount _ _

/-- Reset leaves the flag field at `FLAGS_RESET`. -/
theorem flags_reset (f : BitVec 3) : (f ++ 0b00000#5).extractLsb' 5 3 = f := by
  revert f
  decide

/-- Reset leaves the count field at 0. -/
theorem count_reset (f : BitVec 3) : (f ++ 0b00000#5).extractLsb' 0 5 = 0#5 := by
  revert f
  decide

/-- The sample enters at bit 0. -/
theorem shiftIn_low (sr : Byte) (b : Bool) : (shiftIn sr b).getLsbD 0 = b := by
  revert sr b
  decide

/-- Every other bit moves up by one; the old top bit is gone. -/
theorem shiftIn_up (sr : Byte) (b : Bool) (i : Nat) (h : i < 7) : (shiftIn sr b).getLsbD (i + 1) = sr.getLsbD i := by
  revert sr b
  have : i = 0 ∨ i = 1 ∨ i = 2 ∨ i = 3 ∨ i = 4 ∨ i = 5 ∨ i = 6 := by omega
  rcases this with rfl | rfl | rfl | rfl | rfl | rfl | rfl <;> decide

/-- The direction bit of the address byte is 0, write. -/
theorem frameAddress_direction (a : Addr) : (frameAddress a).getLsbD 0 = false := by
  revert a
  decide

end Sys2Proof.Machine
end

