-- ==== Sys2Proof/Laws/Decode.lean ====
section
/-! SUPPORT. The fields of the words (30_encoding.md R81, R87, R88). -/

namespace Sys2Proof

/-- The dispatch word's fields are the phase code and the two condition bits, and it decodes by them (R87, R151). -/
theorem decodeDw_dispatchWord (p : PhaseCode) (n l : Bool) : decodeDw (dispatchWord p n l) = decodePhase p n l := by
  revert p n l
  decide

/-- A command's ports, packed, read back: no bit of the address or of a length below `2^LENW` is lost (R81). -/
theorem unpackCmd_packCmd {lenw len : Nat} (valid : BitVec 1) (a : Addr) (h : len < 2 ^ lenw) :
    unpackCmd lenw (packCmd lenw valid a len) = .cmd valid a len := by
  have hp : 0 < 2 ^ lenw := Nat.two_pow_pos lenw
  have hd : packCmd lenw valid a len / 2 ^ lenw = valid.toNat * 128 + a.toNat := by
    rw [packCmd, Nat.mod_eq_of_lt h, Nat.mul_comm, Nat.mul_add_div hp, Nat.div_eq_of_lt h, Nat.add_zero]
  have hm : packCmd lenw valid a len % 2 ^ lenw = len := by
    rw [packCmd, Nat.mod_eq_of_lt h, Nat.mul_comm, Nat.mul_add_mod, Nat.mod_eq_of_lt h]
  have ha := a.isLt
  have hv := valid.isLt
  have h1 : BitVec.ofNat 1 ((valid.toNat * 128 + a.toNat) / 128) = valid := by
    apply BitVec.eq_of_toNat_eq
    rw [BitVec.toNat_ofNat]
    omega
  have h2 : BitVec.ofNat 7 (valid.toNat * 128 + a.toNat) = a := by
    apply BitVec.eq_of_toNat_eq
    rw [BitVec.toNat_ofNat]
    omega
  rw [unpackCmd, hd, hm, h1, h2]

/-- A command presented decodes to its operation. -/
theorem decode_cmd (a : Addr) (len : Nat) : decode (.cmd 1#1 a len) = .ok (.wt a len) := rfl

/-- The selector bit decodes by the direction (R91). -/
theorem decode_seq (b : Bool) : decode (.seq (BitVec.ofBool b)) = .ok (if b then .txBit else .rxBit) := by
  cases b <;> rfl

end Sys2Proof
end

