-- ==== Sys2Proof/Laws/State.lean ====
section
/-! SUPPORT. The fields of each update: one lemma per field, gathered per update so that simp takes them all, each
true by rfl. -/

namespace Sys2Proof.Machine

@[simp] theorem noteLevel_fields (s : State) :
    (noteLevel s).phase = s.phase ∧ (noteLevel s).cursor = s.cursor ∧ (noteLevel s).addrByte = s.addrByte ∧
    (noteLevel s).len = s.len ∧ (noteLevel s).sr = s.sr ∧ (noteLevel s).cntreg = s.cntreg ∧
    (noteLevel s).oe = s.oe ∧ (noteLevel s).ge = s.ge ∧ (noteLevel s).sdaq = s.sdaq ∧ (noteLevel s).sclq = s.sclq ∧
    (noteLevel s).ifg = s.ifg ∧ (noteLevel s).err = s.err ∧ (noteLevel s).busy = s.busy ∧
    (noteLevel s).lenw = s.lenw ∧ (noteLevel s).flagsReset = s.flagsReset ∧ (noteLevel s).rst = s.rst ∧
    (noteLevel s).gie = s.gie ∧ (noteLevel s).pins = s.pins ∧ (noteLevel s).script = s.script ∧
    (noteLevel s).strobe = s.strobe ∧ (noteLevel s).payload = s.payload ∧ (noteLevel s).oracle = s.oracle ∧
    (noteLevel s).draws = s.draws ∧ (noteLevel s).events = s.events ++ [.pins (level s)] ∧
    (noteLevel s).reads = s.reads ∧ (noteLevel s).wakes = s.wakes ∧ (noteLevel s).errReads = s.errReads ∧
    (noteLevel s).rxReads = s.rxReads :=
  ⟨rfl, rfl, rfl, rfl, rfl, rfl, rfl, rfl, rfl, rfl, rfl, rfl, rfl, rfl, rfl, rfl, rfl, rfl, rfl, rfl, rfl, rfl, rfl, rfl, rfl, rfl, rfl, rfl⟩

@[simp] theorem setOe_fields (b : Bool) (s : State) :
    (setOe b s).phase = s.phase ∧ (setOe b s).cursor = s.cursor ∧ (setOe b s).addrByte = s.addrByte ∧
    (setOe b s).len = s.len ∧ (setOe b s).sr = s.sr ∧ (setOe b s).cntreg = s.cntreg ∧ (setOe b s).oe = b ∧
    (setOe b s).ge = s.ge ∧ (setOe b s).sdaq = s.sdaq ∧ (setOe b s).sclq = s.sclq ∧ (setOe b s).ifg = s.ifg ∧
    (setOe b s).err = s.err ∧ (setOe b s).busy = s.busy ∧ (setOe b s).lenw = s.lenw ∧
    (setOe b s).flagsReset = s.flagsReset ∧ (setOe b s).rst = s.rst ∧ (setOe b s).gie = s.gie ∧
    (setOe b s).pins = s.pins ∧ (setOe b s).script = s.script ∧ (setOe b s).strobe = s.strobe ∧
    (setOe b s).payload = s.payload ∧ (setOe b s).oracle = s.oracle ∧ (setOe b s).draws = s.draws ∧
    (setOe b s).events = s.events ++ [.pins ⟨b && !s.sdaq, !s.sclq⟩] ∧ (setOe b s).reads = s.reads ∧
    (setOe b s).wakes = s.wakes ∧ (setOe b s).errReads = s.errReads ∧ (setOe b s).rxReads = s.rxReads :=
  ⟨rfl, rfl, rfl, rfl, rfl, rfl, rfl, rfl, rfl, rfl, rfl, rfl, rfl, rfl, rfl, rfl, rfl, rfl, rfl, rfl, rfl, rfl, rfl, rfl, rfl, rfl, rfl, rfl⟩

@[simp] theorem setSdaq_fields (b : Bool) (s : State) :
    (setSdaq b s).phase = s.phase ∧ (setSdaq b s).cursor = s.cursor ∧ (setSdaq b s).addrByte = s.addrByte ∧
    (setSdaq b s).len = s.len ∧ (setSdaq b s).sr = s.sr ∧ (setSdaq b s).cntreg = s.cntreg ∧
    (setSdaq b s).oe = s.oe ∧ (setSdaq b s).ge = s.ge ∧ (setSdaq b s).sdaq = b ∧ (setSdaq b s).sclq = s.sclq ∧
    (setSdaq b s).ifg = s.ifg ∧ (setSdaq b s).err = s.err ∧ (setSdaq b s).busy = s.busy ∧
    (setSdaq b s).lenw = s.lenw ∧ (setSdaq b s).flagsReset = s.flagsReset ∧ (setSdaq b s).rst = s.rst ∧
    (setSdaq b s).gie = s.gie ∧ (setSdaq b s).pins = s.pins ∧ (setSdaq b s).script = s.script ∧
    (setSdaq b s).strobe = s.strobe ∧ (setSdaq b s).payload = s.payload ∧ (setSdaq b s).oracle = s.oracle ∧
    (setSdaq b s).draws = s.draws ∧ (setSdaq b s).events = s.events ++ [.pins ⟨s.oe && !b, !s.sclq⟩] ∧
    (setSdaq b s).reads = s.reads ∧ (setSdaq b s).wakes = s.wakes ∧ (setSdaq b s).errReads = s.errReads ∧
    (setSdaq b s).rxReads = s.rxReads :=
  ⟨rfl, rfl, rfl, rfl, rfl, rfl, rfl, rfl, rfl, rfl, rfl, rfl, rfl, rfl, rfl, rfl, rfl, rfl, rfl, rfl, rfl, rfl, rfl, rfl, rfl, rfl, rfl, rfl⟩

@[simp] theorem setSclq_fields (b : Bool) (s : State) :
    (setSclq b s).phase = s.phase ∧ (setSclq b s).cursor = s.cursor ∧ (setSclq b s).addrByte = s.addrByte ∧
    (setSclq b s).len = s.len ∧ (setSclq b s).sr = s.sr ∧ (setSclq b s).cntreg = s.cntreg ∧
    (setSclq b s).oe = s.oe ∧ (setSclq b s).ge = s.ge ∧ (setSclq b s).sdaq = s.sdaq ∧ (setSclq b s).sclq = b ∧
    (setSclq b s).ifg = s.ifg ∧ (setSclq b s).err = s.err ∧ (setSclq b s).busy = s.busy ∧
    (setSclq b s).lenw = s.lenw ∧ (setSclq b s).flagsReset = s.flagsReset ∧ (setSclq b s).rst = s.rst ∧
    (setSclq b s).gie = s.gie ∧ (setSclq b s).pins = s.pins ∧ (setSclq b s).script = s.script ∧
    (setSclq b s).strobe = s.strobe ∧ (setSclq b s).payload = s.payload ∧ (setSclq b s).oracle = s.oracle ∧
    (setSclq b s).draws = s.draws ∧ (setSclq b s).events = s.events ++ [.pins ⟨s.oe && !s.sdaq, !b⟩] ∧
    (setSclq b s).reads = s.reads ∧ (setSclq b s).wakes = s.wakes ∧ (setSclq b s).errReads = s.errReads ∧
    (setSclq b s).rxReads = s.rxReads :=
  ⟨rfl, rfl, rfl, rfl, rfl, rfl, rfl, rfl, rfl, rfl, rfl, rfl, rfl, rfl, rfl, rfl, rfl, rfl, rfl, rfl, rfl, rfl, rfl, rfl, rfl, rfl, rfl, rfl⟩

@[simp] theorem emit_fields (y : Sym) (s : State) :
    (emit y s).phase = s.phase ∧ (emit y s).cursor = s.cursor ∧ (emit y s).addrByte = s.addrByte ∧
    (emit y s).len = s.len ∧ (emit y s).sr = s.sr ∧ (emit y s).cntreg = s.cntreg ∧ (emit y s).oe = s.oe ∧
    (emit y s).ge = s.ge ∧ (emit y s).sdaq = s.sdaq ∧ (emit y s).sclq = s.sclq ∧ (emit y s).ifg = s.ifg ∧
    (emit y s).err = s.err ∧ (emit y s).busy = s.busy ∧ (emit y s).lenw = s.lenw ∧
    (emit y s).flagsReset = s.flagsReset ∧ (emit y s).rst = s.rst ∧ (emit y s).gie = s.gie ∧
    (emit y s).pins = s.pins ∧ (emit y s).script = s.script ∧ (emit y s).strobe = s.strobe ∧
    (emit y s).payload = s.payload ∧ (emit y s).oracle = s.oracle ∧ (emit y s).draws = s.draws ∧
    (emit y s).events = s.events ++ [.sym y] ∧ (emit y s).reads = s.reads ∧ (emit y s).wakes = s.wakes ∧
    (emit y s).errReads = s.errReads ∧ (emit y s).rxReads = s.rxReads :=
  ⟨rfl, rfl, rfl, rfl, rfl, rfl, rfl, rfl, rfl, rfl, rfl, rfl, rfl, rfl, rfl, rfl, rfl, rfl, rfl, rfl, rfl, rfl, rfl, rfl, rfl, rfl, rfl, rfl⟩

@[simp] theorem dirOut_fields (s : State) :
    (dirOut s).phase = s.phase ∧ (dirOut s).cursor = s.cursor ∧ (dirOut s).addrByte = s.addrByte ∧
    (dirOut s).len = s.len ∧ (dirOut s).sr = s.sr ∧ (dirOut s).cntreg = s.cntreg ∧ (dirOut s).oe = true ∧
    (dirOut s).ge = s.ge ∧ (dirOut s).sdaq = s.sdaq ∧ (dirOut s).sclq = s.sclq ∧ (dirOut s).ifg = s.ifg ∧
    (dirOut s).err = s.err ∧ (dirOut s).busy = s.busy ∧ (dirOut s).lenw = s.lenw ∧
    (dirOut s).flagsReset = s.flagsReset ∧ (dirOut s).rst = s.rst ∧ (dirOut s).gie = s.gie ∧
    (dirOut s).pins = s.pins ∧ (dirOut s).script = s.script ∧ (dirOut s).strobe = s.strobe ∧
    (dirOut s).payload = s.payload ∧ (dirOut s).oracle = s.oracle ∧ (dirOut s).draws = s.draws ∧
    (dirOut s).events = s.events ++ [.pins ⟨!s.sdaq, !s.sclq⟩] ∧ (dirOut s).reads = s.reads ∧
    (dirOut s).wakes = s.wakes ∧ (dirOut s).errReads = s.errReads ∧ (dirOut s).rxReads = s.rxReads :=
  ⟨rfl, rfl, rfl, rfl, rfl, rfl, rfl, rfl, rfl, rfl, rfl, rfl, rfl, rfl, rfl, rfl, rfl, rfl, rfl, rfl, rfl, rfl, rfl, rfl, rfl, rfl, rfl, rfl⟩

@[simp] theorem dirIn_fields (s : State) :
    (dirIn s).phase = s.phase ∧ (dirIn s).cursor = s.cursor ∧ (dirIn s).addrByte = s.addrByte ∧
    (dirIn s).len = s.len ∧ (dirIn s).sr = s.sr ∧ (dirIn s).cntreg = s.cntreg ∧ (dirIn s).oe = false ∧
    (dirIn s).ge = s.ge ∧ (dirIn s).sdaq = s.sdaq ∧ (dirIn s).sclq = s.sclq ∧ (dirIn s).ifg = s.ifg ∧
    (dirIn s).err = s.err ∧ (dirIn s).busy = s.busy ∧ (dirIn s).lenw = s.lenw ∧
    (dirIn s).flagsReset = s.flagsReset ∧ (dirIn s).rst = s.rst ∧ (dirIn s).gie = s.gie ∧ (dirIn s).pins = s.pins ∧
    (dirIn s).script = s.script ∧ (dirIn s).strobe = s.strobe ∧ (dirIn s).payload = s.payload ∧
    (dirIn s).oracle = s.oracle ∧ (dirIn s).draws = s.draws ∧
    (dirIn s).events = s.events ++ [.pins ⟨false, !s.sclq⟩] ∧ (dirIn s).reads = s.reads ∧
    (dirIn s).wakes = s.wakes ∧ (dirIn s).errReads = s.errReads ∧ (dirIn s).rxReads = s.rxReads :=
  ⟨rfl, rfl, rfl, rfl, rfl, rfl, rfl, rfl, rfl, rfl, rfl, rfl, rfl, rfl, rfl, rfl, rfl, rfl, rfl, rfl, rfl, rfl, rfl, rfl, rfl, rfl, rfl, rfl⟩

@[simp] theorem loadCnt_fields (n : Byte) (s : State) :
    (loadCnt n s).phase = s.phase ∧ (loadCnt n s).cursor = s.cursor ∧ (loadCnt n s).addrByte = s.addrByte ∧
    (loadCnt n s).len = s.len ∧ (loadCnt n s).sr = s.sr ∧ (loadCnt n s).cntreg = withCount s.cntreg n ∧
    (loadCnt n s).oe = s.oe ∧ (loadCnt n s).ge = s.ge ∧ (loadCnt n s).sdaq = s.sdaq ∧ (loadCnt n s).sclq = s.sclq ∧
    (loadCnt n s).ifg = s.ifg ∧ (loadCnt n s).err = s.err ∧ (loadCnt n s).busy = s.busy ∧
    (loadCnt n s).lenw = s.lenw ∧ (loadCnt n s).flagsReset = s.flagsReset ∧ (loadCnt n s).rst = s.rst ∧
    (loadCnt n s).gie = s.gie ∧ (loadCnt n s).pins = s.pins ∧ (loadCnt n s).script = s.script ∧
    (loadCnt n s).strobe = s.strobe ∧ (loadCnt n s).payload = s.payload ∧ (loadCnt n s).oracle = s.oracle ∧
    (loadCnt n s).draws = s.draws ∧ (loadCnt n s).events = s.events ∧ (loadCnt n s).reads = s.reads ∧
    (loadCnt n s).wakes = s.wakes ∧ (loadCnt n s).errReads = s.errReads ∧ (loadCnt n s).rxReads = s.rxReads :=
  ⟨rfl, rfl, rfl, rfl, rfl, rfl, rfl, rfl, rfl, rfl, rfl, rfl, rfl, rfl, rfl, rfl, rfl, rfl, rfl, rfl, rfl, rfl, rfl, rfl, rfl, rfl, rfl, rfl⟩

@[simp] theorem raiseIfg_fields (s : State) :
    (raiseIfg s).phase = s.phase ∧ (raiseIfg s).cursor = s.cursor ∧ (raiseIfg s).addrByte = s.addrByte ∧
    (raiseIfg s).len = s.len ∧ (raiseIfg s).sr = s.sr ∧ (raiseIfg s).cntreg = s.cntreg ∧ (raiseIfg s).oe = s.oe ∧
    (raiseIfg s).ge = s.ge ∧ (raiseIfg s).sdaq = s.sdaq ∧ (raiseIfg s).sclq = s.sclq ∧ (raiseIfg s).ifg = true ∧
    (raiseIfg s).err = s.err ∧ (raiseIfg s).busy = s.busy ∧ (raiseIfg s).lenw = s.lenw ∧
    (raiseIfg s).flagsReset = s.flagsReset ∧ (raiseIfg s).rst = s.rst ∧ (raiseIfg s).gie = s.gie ∧
    (raiseIfg s).pins = s.pins ∧ (raiseIfg s).script = s.script ∧ (raiseIfg s).strobe = s.strobe ∧
    (raiseIfg s).payload = s.payload ∧ (raiseIfg s).oracle = s.oracle ∧ (raiseIfg s).draws = s.draws ∧
    (raiseIfg s).events = s.events ∧ (raiseIfg s).reads = s.reads ∧ (raiseIfg s).wakes = s.wakes ∧
    (raiseIfg s).errReads = s.errReads ∧ (raiseIfg s).rxReads = s.rxReads :=
  ⟨rfl, rfl, rfl, rfl, rfl, rfl, rfl, rfl, rfl, rfl, rfl, rfl, rfl, rfl, rfl, rfl, rfl, rfl, rfl, rfl, rfl, rfl, rfl, rfl, rfl, rfl, rfl, rfl⟩

@[simp] theorem clearIfg_fields (s : State) :
    (clearIfg s).phase = s.phase ∧ (clearIfg s).cursor = s.cursor ∧ (clearIfg s).addrByte = s.addrByte ∧
    (clearIfg s).len = s.len ∧ (clearIfg s).sr = s.sr ∧ (clearIfg s).cntreg = s.cntreg ∧ (clearIfg s).oe = s.oe ∧
    (clearIfg s).ge = s.ge ∧ (clearIfg s).sdaq = s.sdaq ∧ (clearIfg s).sclq = s.sclq ∧ (clearIfg s).ifg = false ∧
    (clearIfg s).err = s.err ∧ (clearIfg s).busy = s.busy ∧ (clearIfg s).lenw = s.lenw ∧
    (clearIfg s).flagsReset = s.flagsReset ∧ (clearIfg s).rst = s.rst ∧ (clearIfg s).gie = s.gie ∧
    (clearIfg s).pins = s.pins ∧ (clearIfg s).script = s.script ∧ (clearIfg s).strobe = s.strobe ∧
    (clearIfg s).payload = s.payload ∧ (clearIfg s).oracle = s.oracle ∧ (clearIfg s).draws = s.draws ∧
    (clearIfg s).events = s.events ∧ (clearIfg s).reads = s.reads ∧ (clearIfg s).wakes = s.wakes ∧
    (clearIfg s).errReads = s.errReads ∧ (clearIfg s).rxReads = s.rxReads :=
  ⟨rfl, rfl, rfl, rfl, rfl, rfl, rfl, rfl, rfl, rfl, rfl, rfl, rfl, rfl, rfl, rfl, rfl, rfl, rfl, rfl, rfl, rfl, rfl, rfl, rfl, rfl, rfl, rfl⟩

@[simp] theorem latchOpen_fields (s : State) :
    (latchOpen s).phase = s.phase ∧ (latchOpen s).cursor = s.cursor ∧ (latchOpen s).addrByte = s.addrByte ∧
    (latchOpen s).len = s.len ∧ (latchOpen s).sr = s.sr ∧ (latchOpen s).cntreg = s.cntreg ∧
    (latchOpen s).oe = s.oe ∧ (latchOpen s).ge = true ∧ (latchOpen s).sdaq = s.sr.getLsbD 7 ∧
    (latchOpen s).sclq = s.sclq ∧ (latchOpen s).ifg = s.ifg ∧ (latchOpen s).err = s.err ∧
    (latchOpen s).busy = s.busy ∧ (latchOpen s).lenw = s.lenw ∧ (latchOpen s).flagsReset = s.flagsReset ∧
    (latchOpen s).rst = s.rst ∧ (latchOpen s).gie = s.gie ∧ (latchOpen s).pins = s.pins ∧
    (latchOpen s).script = s.script ∧ (latchOpen s).strobe = s.strobe ∧ (latchOpen s).payload = s.payload ∧
    (latchOpen s).oracle = s.oracle ∧ (latchOpen s).draws = s.draws ∧
    (latchOpen s).events = s.events ++ [.pins ⟨s.oe && !s.sr.getLsbD 7, !s.sclq⟩] ∧ (latchOpen s).reads = s.reads ∧
    (latchOpen s).wakes = s.wakes ∧ (latchOpen s).errReads = s.errReads ∧ (latchOpen s).rxReads = s.rxReads :=
  ⟨rfl, rfl, rfl, rfl, rfl, rfl, rfl, rfl, rfl, rfl, rfl, rfl, rfl, rfl, rfl, rfl, rfl, rfl, rfl, rfl, rfl, rfl, rfl, rfl, rfl, rfl, rfl, rfl⟩

@[simp] theorem latchClose_fields (s : State) :
    (latchClose s).phase = s.phase ∧ (latchClose s).cursor = s.cursor ∧ (latchClose s).addrByte = s.addrByte ∧
    (latchClose s).len = s.len ∧ (latchClose s).sr = s.sr ∧ (latchClose s).cntreg = s.cntreg ∧
    (latchClose s).oe = s.oe ∧ (latchClose s).ge = false ∧ (latchClose s).sdaq = s.sdaq ∧
    (latchClose s).sclq = s.sclq ∧ (latchClose s).ifg = s.ifg ∧ (latchClose s).err = s.err ∧
    (latchClose s).busy = s.busy ∧ (latchClose s).lenw = s.lenw ∧ (latchClose s).flagsReset = s.flagsReset ∧
    (latchClose s).rst = s.rst ∧ (latchClose s).gie = s.gie ∧ (latchClose s).pins = s.pins ∧
    (latchClose s).script = s.script ∧ (latchClose s).strobe = s.strobe ∧ (latchClose s).payload = s.payload ∧
    (latchClose s).oracle = s.oracle ∧ (latchClose s).draws = s.draws ∧ (latchClose s).events = s.events ∧
    (latchClose s).reads = s.reads ∧ (latchClose s).wakes = s.wakes ∧ (latchClose s).errReads = s.errReads ∧
    (latchClose s).rxReads = s.rxReads :=
  ⟨rfl, rfl, rfl, rfl, rfl, rfl, rfl, rfl, rfl, rfl, rfl, rfl, rfl, rfl, rfl, rfl, rfl, rfl, rfl, rfl, rfl, rfl, rfl, rfl, rfl, rfl, rfl, rfl⟩

@[simp] theorem sclRelease_fields (s : State) :
    (sclRelease s).phase = s.phase ∧ (sclRelease s).cursor = s.cursor ∧ (sclRelease s).addrByte = s.addrByte ∧
    (sclRelease s).len = s.len ∧ (sclRelease s).sr = s.sr ∧ (sclRelease s).cntreg = s.cntreg ∧
    (sclRelease s).oe = s.oe ∧ (sclRelease s).ge = s.ge ∧ (sclRelease s).sdaq = s.sdaq ∧
    (sclRelease s).sclq = true ∧ (sclRelease s).ifg = s.ifg ∧ (sclRelease s).err = s.err ∧
    (sclRelease s).busy = s.busy ∧ (sclRelease s).lenw = s.lenw ∧ (sclRelease s).flagsReset = s.flagsReset ∧
    (sclRelease s).rst = s.rst ∧ (sclRelease s).gie = s.gie ∧ (sclRelease s).pins = s.pins ∧
    (sclRelease s).script = s.script ∧ (sclRelease s).strobe = s.strobe ∧ (sclRelease s).payload = s.payload ∧
    (sclRelease s).oracle = s.oracle ∧ (sclRelease s).draws = s.draws ∧
    (sclRelease s).events = s.events ++ [.pins ⟨s.oe && !s.sdaq, false⟩] ∧ (sclRelease s).reads = s.reads ∧
    (sclRelease s).wakes = s.wakes ∧ (sclRelease s).errReads = s.errReads ∧ (sclRelease s).rxReads = s.rxReads :=
  ⟨rfl, rfl, rfl, rfl, rfl, rfl, rfl, rfl, rfl, rfl, rfl, rfl, rfl, rfl, rfl, rfl, rfl, rfl, rfl, rfl, rfl, rfl, rfl, rfl, rfl, rfl, rfl, rfl⟩

@[simp] theorem takeError_fields (e : BusError) (s : State) :
    (takeError e s).phase = s.phase ∧ (takeError e s).cursor = s.cursor ∧ (takeError e s).addrByte = s.addrByte ∧
    (takeError e s).len = s.len ∧ (takeError e s).sr = s.sr ∧ (takeError e s).cntreg = s.cntreg ∧
    (takeError e s).oe = s.oe ∧ (takeError e s).ge = s.ge ∧ (takeError e s).sdaq = s.sdaq ∧
    (takeError e s).sclq = s.sclq ∧ (takeError e s).ifg = s.ifg ∧ (takeError e s).err = true ∧
    (takeError e s).busy = s.busy ∧ (takeError e s).lenw = s.lenw ∧ (takeError e s).flagsReset = s.flagsReset ∧
    (takeError e s).rst = s.rst ∧ (takeError e s).gie = s.gie ∧ (takeError e s).pins = s.pins ∧
    (takeError e s).script = s.script ∧ (takeError e s).strobe = s.strobe ∧ (takeError e s).payload = s.payload ∧
    (takeError e s).oracle = s.oracle ∧ (takeError e s).draws = s.draws ∧ (takeError e s).events = s.events ∧
    (takeError e s).reads = s.reads ∧ (takeError e s).wakes = s.wakes ∧ (takeError e s).errReads = s.errReads ∧
    (takeError e s).rxReads = s.rxReads :=
  ⟨rfl, rfl, rfl, rfl, rfl, rfl, rfl, rfl, rfl, rfl, rfl, rfl, rfl, rfl, rfl, rfl, rfl, rfl, rfl, rfl, rfl, rfl, rfl, rfl, rfl, rfl, rfl, rfl⟩

@[simp] theorem clearErr_fields (s : State) :
    (clearErr s).phase = s.phase ∧ (clearErr s).cursor = s.cursor ∧ (clearErr s).addrByte = s.addrByte ∧
    (clearErr s).len = s.len ∧ (clearErr s).sr = s.sr ∧ (clearErr s).cntreg = s.cntreg ∧ (clearErr s).oe = s.oe ∧
    (clearErr s).ge = s.ge ∧ (clearErr s).sdaq = s.sdaq ∧ (clearErr s).sclq = s.sclq ∧ (clearErr s).ifg = s.ifg ∧
    (clearErr s).err = false ∧ (clearErr s).busy = s.busy ∧ (clearErr s).lenw = s.lenw ∧
    (clearErr s).flagsReset = s.flagsReset ∧ (clearErr s).rst = s.rst ∧ (clearErr s).gie = s.gie ∧
    (clearErr s).pins = s.pins ∧ (clearErr s).script = s.script ∧ (clearErr s).strobe = s.strobe ∧
    (clearErr s).payload = s.payload ∧ (clearErr s).oracle = s.oracle ∧ (clearErr s).draws = s.draws ∧
    (clearErr s).events = s.events ∧ (clearErr s).reads = s.reads ∧ (clearErr s).wakes = s.wakes ∧
    (clearErr s).errReads = s.errReads ∧ (clearErr s).rxReads = s.rxReads :=
  ⟨rfl, rfl, rfl, rfl, rfl, rfl, rfl, rfl, rfl, rfl, rfl, rfl, rfl, rfl, rfl, rfl, rfl, rfl, rfl, rfl, rfl, rfl, rfl, rfl, rfl, rfl, rfl, rfl⟩

@[simp] theorem setPhase_fields (p : PhaseCode) (s : State) :
    (setPhase p s).phase = p ∧ (setPhase p s).cursor = s.cursor ∧ (setPhase p s).addrByte = s.addrByte ∧
    (setPhase p s).len = s.len ∧ (setPhase p s).sr = s.sr ∧ (setPhase p s).cntreg = s.cntreg ∧
    (setPhase p s).oe = s.oe ∧ (setPhase p s).ge = s.ge ∧ (setPhase p s).sdaq = s.sdaq ∧
    (setPhase p s).sclq = s.sclq ∧ (setPhase p s).ifg = s.ifg ∧ (setPhase p s).err = s.err ∧
    (setPhase p s).busy = s.busy ∧ (setPhase p s).lenw = s.lenw ∧ (setPhase p s).flagsReset = s.flagsReset ∧
    (setPhase p s).rst = s.rst ∧ (setPhase p s).gie = s.gie ∧ (setPhase p s).pins = s.pins ∧
    (setPhase p s).script = s.script ∧ (setPhase p s).strobe = s.strobe ∧ (setPhase p s).payload = s.payload ∧
    (setPhase p s).oracle = s.oracle ∧ (setPhase p s).draws = s.draws ∧ (setPhase p s).events = s.events ∧
    (setPhase p s).reads = s.reads ∧ (setPhase p s).wakes = s.wakes ∧ (setPhase p s).errReads = s.errReads ∧
    (setPhase p s).rxReads = s.rxReads :=
  ⟨rfl, rfl, rfl, rfl, rfl, rfl, rfl, rfl, rfl, rfl, rfl, rfl, rfl, rfl, rfl, rfl, rfl, rfl, rfl, rfl, rfl, rfl, rfl, rfl, rfl, rfl, rfl, rfl⟩

@[simp] theorem advanceCursor_fields (s : State) :
    (advanceCursor s).phase = s.phase ∧ (advanceCursor s).cursor = (s.cursor + 1) % 2 ^ s.lenw ∧
    (advanceCursor s).addrByte = s.addrByte ∧ (advanceCursor s).len = s.len ∧ (advanceCursor s).sr = s.sr ∧
    (advanceCursor s).cntreg = s.cntreg ∧ (advanceCursor s).oe = s.oe ∧ (advanceCursor s).ge = s.ge ∧
    (advanceCursor s).sdaq = s.sdaq ∧ (advanceCursor s).sclq = s.sclq ∧ (advanceCursor s).ifg = s.ifg ∧
    (advanceCursor s).err = s.err ∧ (advanceCursor s).busy = s.busy ∧ (advanceCursor s).lenw = s.lenw ∧
    (advanceCursor s).flagsReset = s.flagsReset ∧ (advanceCursor s).rst = s.rst ∧ (advanceCursor s).gie = s.gie ∧
    (advanceCursor s).pins = s.pins ∧ (advanceCursor s).script = s.script ∧ (advanceCursor s).strobe = s.strobe ∧
    (advanceCursor s).payload = s.payload ∧ (advanceCursor s).oracle = s.oracle ∧
    (advanceCursor s).draws = s.draws ∧ (advanceCursor s).events = s.events ∧
    (advanceCursor s).reads = s.reads ++ [s.cursor] ∧ (advanceCursor s).wakes = s.wakes ∧
    (advanceCursor s).errReads = s.errReads ∧ (advanceCursor s).rxReads = s.rxReads :=
  ⟨rfl, rfl, rfl, rfl, rfl, rfl, rfl, rfl, rfl, rfl, rfl, rfl, rfl, rfl, rfl, rfl, rfl, rfl, rfl, rfl, rfl, rfl, rfl, rfl, rfl, rfl, rfl, rfl⟩

@[simp] theorem quiet_fields (s : State) :
    (quiet s).phase = s.phase ∧ (quiet s).cursor = s.cursor ∧ (quiet s).addrByte = s.addrByte ∧
    (quiet s).len = s.len ∧ (quiet s).sr = s.sr ∧ (quiet s).cntreg = s.cntreg ∧ (quiet s).oe = s.oe ∧
    (quiet s).ge = s.ge ∧ (quiet s).sdaq = s.sdaq ∧ (quiet s).sclq = s.sclq ∧ (quiet s).ifg = s.ifg ∧
    (quiet s).err = s.err ∧ (quiet s).busy = s.busy ∧ (quiet s).lenw = s.lenw ∧
    (quiet s).flagsReset = s.flagsReset ∧ (quiet s).rst = false ∧ (quiet s).gie = s.gie ∧ (quiet s).pins = [] ∧
    (quiet s).script = [] ∧ (quiet s).strobe = none ∧ (quiet s).payload = s.payload ∧ (quiet s).oracle = s.oracle ∧
    (quiet s).draws = s.draws ∧ (quiet s).events = s.events ∧ (quiet s).reads = s.reads ∧
    (quiet s).wakes = s.wakes ∧ (quiet s).errReads = s.errReads ∧ (quiet s).rxReads = s.rxReads :=
  ⟨rfl, rfl, rfl, rfl, rfl, rfl, rfl, rfl, rfl, rfl, rfl, rfl, rfl, rfl, rfl, rfl, rfl, rfl, rfl, rfl, rfl, rfl, rfl, rfl, rfl, rfl, rfl, rfl⟩

end Sys2Proof.Machine
end

