-- ==== Sys2Proof/Laws/Ops.lean ====
section
/-! SUPPORT. One lemma per shared operation: everything it can do. -/

namespace Sys2Proof.Machine

/-- `LOAD_SR` with the latch closed leaves the pin alone. -/
theorem loadSr_closed {s : State} (h : s.ge = false) (v : Byte) : loadSr v s = { s with sr := v } := by
  simp [loadSr, h]

/-- `LOAD_SR` with the latch open takes SDA along. -/
theorem loadSr_open {s : State} (h : s.ge = true) (v : Byte) :
    loadSr v s =
      { s with
        sr := v, sdaq := v.getLsbD 7, events := s.events ++ [.pins ⟨s.oe && !v.getLsbD 7, !s.sclq⟩] } := by
  simp [loadSr, h, setSdaq, noteLevel, level, sdaPull, sclPull]

/-- The start condition with the latch closed before. -/
theorem startGen_eq {s : State} (h : s.ge = false) :
    startGen s =
      { s with
        sr := 0x00#8, oe := true, ge := false, sdaq := false,
        events := s.events ++ [.pins ⟨!s.sdaq, !s.sclq⟩, .pins ⟨true, !s.sclq⟩, .sym .start] } := by
  simp [startGen, loadSr_closed h, dirOut, latchOpen, latchClose, emit, setOe, setSdaq, noteLevel, level, sdaPull, sclPull]

/-- The stop condition with the latch closed before: SDA low under the clock as it stands, the clock released, SDA
released, the direction turned to input. -/
theorem stopGen_eq {s : State} (h : s.ge = false) :
    stopGen s =
      { s with
        sr := 0xFF#8, oe := false, ge := false, sdaq := true, sclq := true,
        events := s.events ++
          [.pins ⟨s.oe, !s.sclq⟩, .pins ⟨s.oe, false⟩, .pins ⟨false, false⟩, .sym .stop, .pins ⟨false, false⟩] } := by
  simp only [stopGen, loadSr_closed h]
  simp [loadSr, dirIn, latchOpen, latchClose, sclRelease, emit, setOe, setSdaq, setSclq,
    noteLevel, level, sdaPull, sclPull]

/-- The stop actions with the latch closed before. -/
theorem stopActions_eq {s : State} (h : s.ge = false) :
    stopActions s =
      { s with
        sr := 0xFF#8, oe := false, ge := false, sdaq := true, sclq := true, phase := 0b000#3, busy := false,
        wakes := if s.busy then s.wakes + 1 else s.wakes,
        events := s.events ++
          [.pins ⟨s.oe, !s.sclq⟩, .pins ⟨s.oe, false⟩, .pins ⟨false, false⟩, .sym .stop, .pins ⟨false, false⟩] } := by
  simp [stopActions, stopGen_eq h]

/-- The level a bit step samples (R121, R122): the target's, unless the block pulls the line low. -/
theorem clockBit_eq (sym : Bool → Bool → Sym) (t : Bool) (s : State) :
    clockBit sym t s =
      { s with
        sclq := false, sdaq := s.sr.getLsbD 7,
        sr := shiftIn s.sr (!(s.oe && !s.sr.getLsbD 7) && t), cntreg := decCount s.cntreg,
        ifg := if cnt s - 1#5 = 0#5 then true else s.ifg,
        events := s.events ++
          [.pins ⟨s.oe && !s.sdaq, true⟩, .pins ⟨s.oe && !s.sr.getLsbD 7, true⟩,
            .pins ⟨s.oe && !s.sr.getLsbD 7, false⟩, .sym (sym (s.sr.getLsbD 7) (!(s.oe && !s.sr.getLsbD 7) && t)),
            .pins ⟨s.oe && !s.sr.getLsbD 7, true⟩] } := by
  have hc : (decCount s.cntreg).extractLsb' 0 5 = cnt s - 1#5 := count_decCount _
  simp only [cnt] at hc
  by_cases h : s.cntreg.extractLsb' 0 5 - 1#5 = 0#5 <;>
    simp [clockBit, setSclq, setSdaq, emit, noteLevel, level, sdaPull, sclPull, sdaLine, completes, raiseIfg, cnt, hc, h]

/-- Every outcome of a bit step. -/
theorem seqStep_cases (out : Bool) (sym : Bool → Bool → Sym) (s : State) :
    (seqEnabled s = true ∧ s.oe = out ∧ (answer s).clockRises = true ∧
        seqStep out sym s = .next (clockBit sym (answer s).tSda (afterAnswer s))) ∨
      (seqEnabled s = true ∧ s.oe = out ∧ (answer s).clockRises = false ∧ seqStep out sym s = .next (afterAnswer s)) ∨
      ((seqEnabled s = false ∨ s.oe ≠ out) ∧ seqStep out sym s = .next s) := by
  unfold seqStep
  by_cases h : seqEnabled s = true <;> by_cases ho : s.oe = out <;> by_cases ha : (answer s).clockRises = true <;>
    simp [h, ho, ha]

/-- An answer that is lined up is the one used. -/
theorem answer_lined_up {s : State} {a : Answer} {rest : List Answer} (h : s.oracle = a :: rest) :
    answer s = a ∧ afterAnswer s = { s with oracle := rest } := by
  simp [answer, afterAnswer, h]

/-- Using an answer changes the oracle and the model's own counter alone. -/
theorem afterAnswer_frame (s : State) :
    afterAnswer s = { s with oracle := (afterAnswer s).oracle, draws := (afterAnswer s).draws } := by
  unfold afterAnswer
  split <;> rfl

/-- An invocation that is enabled runs its operation and clears the flag. -/
theorem invoke_enabled {s : State} (op : State → Result) (hi : s.ifg = true) (hg : s.gie = true) :
    invoke op s = controllerReturn (op s) := by
  simp [invoke, ctrlEnabled, controllerEntry, hi, hg]

/-- An invocation that is not enabled changes nothing. -/
theorem invoke_disabled {s : State} (op : State → Result) (h : s.ifg = false ∨ s.gie = false) :
    invoke op s = .next s := by
  rcases h with h | h <;> simp [invoke, ctrlEnabled, h]

/-- Going on with a payload byte, the latch closed before: the byte at the cursor, or the fault where there is none. -/
theorem sendPayloadByte_eq {s : State} (h : s.ge = false) :
    sendPayloadByte s =
      if s.cursor < s.len then
        .next { s with
          oe := true, err := false, sr := Memory.read s.payload s.cursor, cursor := (s.cursor + 1) % 2 ^ s.lenw,
          reads := s.reads ++ [s.cursor], cntreg := withCount s.cntreg 8#8, phase := 0b011#3,
          events := s.events ++ [.pins ⟨!s.sdaq, !s.sclq⟩] }
      else .fault .payloadOutOfRange := by
  by_cases hc : s.cursor < s.len <;>
    simp [sendPayloadByte, payloadOperand, hc, loadSr, h, clearErr, dirOut, setOe, noteLevel, level, sdaPull, sclPull,
      setPhase, loadCnt, advanceCursor]

/-- Every outcome of a kick-off. -/
theorem kickOff_eq (a : Addr) (len : Nat) (s : State) :
    kickOff a len s =
      if 2 ^ s.lenw ≤ len then .refused .widerThanPort
      else if s.busy then .fault .commandInFlight
      else if len = 0 then .fault .zeroLength
      else .next { s with
        addrByte := frameAddress a, len := len, cursor := 0, phase := 0b000#3, ifg := true, busy := true } := rfl

end Sys2Proof.Machine
end

