-- ==== Sys2Proof/Laws/Step.lean ====
section
/-! SUPPORT. What a step can do, said once. -/

namespace Sys2Proof.Machine

/-- The dispatch word decodes by the phase code, `NACK` and `LAST` (R151). -/
theorem decodeDw_dw (s : State) : decodeDw (dw s) = decodePhase s.phase (nack s) (last s) :=
  decodeDw_dispatchWord _ _ _

/-- Sampling the pins changes the two levels and the schedule alone. -/
theorem samplePins_frame (s : State) :
    samplePins s =
      { s with rst := (samplePins s).rst, gie := (samplePins s).gie, pins := (samplePins s).pins } := by
  unfold samplePins
  split <;> rfl

/-- With no pin change scheduled the levels hold. -/
theorem samplePins_held {s : State} (h : s.pins = []) : samplePins s = s := by
  simp [samplePins, h]

/-- The block's choice: the controller, the sequencer, or rest. -/
theorem selectBlock_cases (s : State) :
    (s.ifg = true ∧ s.gie = true ∧ selectBlock s = .word (.dw (dw s)) s) ∨
      (s.ifg = false ∧ cnt s ≠ 0#5 ∧ selectBlock s = .word (.seq (BitVec.ofBool s.oe)) s) ∨
      (((s.ifg = true ∧ s.gie = false) ∨ (s.ifg = false ∧ cnt s = 0#5)) ∧ selectBlock s = .rest s) := by
  unfold selectBlock ctrlEnabled seqEnabled
  cases hi : s.ifg <;> cases hg : s.gie <;> by_cases hc : cnt s = 0#5 <;> simp [hc]

/-- A quiet host leaves the choice to the block. -/
theorem selectHost_quiet {s : State} (h : hostQuiet s = true) : selectHost s = selectBlock s := by
  unfold hostQuiet at h
  unfold selectHost
  split <;> simp_all

/-- Where nothing outside the block is due, a step is the block's. -/
theorem step_blockAlone {s : State} (h : BlockAlone s) :
    step s =
      if s.ifg then (if s.gie then exec (decodeDw (dw s)) s else .next s)
      else if cnt s = 0#5 then .next s
      else exec (if s.oe then .txBit else .rxBit) s := by
  obtain ⟨hr, hp, hs, hq⟩ := h
  have hsel : select (samplePins s) = selectBlock s := by
    rw [samplePins_held hp]
    simp [select, hr, hs, selectHost_quiet hq]
  unfold step
  rw [hsel]
  obtain ⟨hi, hg, he⟩ | ⟨hi, hc, he⟩ | ⟨hd, he⟩ := selectBlock_cases s <;> rw [he]
  · simp [decode, hi, hg]
  · simp only [decode_seq]
    simp [hi, hc]
  · rcases hd with ⟨hi, hg⟩ | ⟨hi, hc⟩ <;> simp [*]

/-- Everything a step can do when it answers a next state, `u` being the state once the pins are sampled. -/
theorem step_cases {s t : State} (h : step s = .next t) :
    let u := samplePins s
    (u.rst = true ∧ exec .reset u = .next t) ∨
    (u.rst = false ∧ ∃ k i, u.strobe = some k ∧ decodePrim k.word k.operand = .ok i ∧
      exec i { u with strobe := none } = .next t) ∨
    (u.rst = false ∧ u.strobe = none ∧ ∃ rest,
      (∃ a len, u.script = .wt a len :: rest ∧ exec (.wt a len) { u with script := rest } = .next t) ∨
      (∃ a len, u.script = .writeTransaction a len :: rest ∧
        exec (.writeTransaction a len) { u with script := rest } = .next t) ∨
      (∃ i b, u.script = .poke i b :: rest ∧ hostPoke i b { u with script := rest } = .next t) ∨
      (u.busy = false ∧ u.script = .wait :: rest ∧ exec .wait { u with script := rest } = .next t) ∨
      (u.busy = false ∧ u.script = .readErr :: rest ∧ exec .readErr { u with script := rest } = .next t)) ∨
    (u.rst = false ∧ u.strobe = none ∧
      ((u.ifg = true ∧ u.gie = true ∧ exec (decodePhase u.phase (nack u) (last u)) u = .next t) ∨
        (u.ifg = false ∧ cnt u ≠ 0#5 ∧ exec (if u.oe then .txBit else .rxBit) u = .next t) ∨
        t = u)) := by
  intro u
  have hblock : ∀ {w : Selected}, w = selectBlock u → w = select u →
      ((u.ifg = true ∧ u.gie = true ∧ exec (decodePhase u.phase (nack u) (last u)) u = .next t) ∨
        (u.ifg = false ∧ cnt u ≠ 0#5 ∧ exec (if u.oe then .txBit else .rxBit) u = .next t) ∨ t = u) := by
    intro w hw hsel
    change (match select u with | .rest t => _ | .host i t => _ | .poke i b t => _ | .word w t => _) = _ at h
    rw [← hsel, hw] at h
    obtain ⟨hi, hg, he⟩ | ⟨hi, hc, he⟩ | ⟨_, he⟩ := selectBlock_cases u <;> rw [he] at h
    · exact .inl ⟨hi, hg, by simpa [decode, decodeDw_dw] using h⟩
    · exact .inr (.inl ⟨hi, hc, by simpa only [decode_seq] using h⟩)
    · exact .inr (.inr (by simpa using h.symm))
  change (match select u with | .rest t => _ | .host i t => _ | .poke i b t => _ | .word w t => _) = _ at h
  obtain hr | hr : u.rst = true ∨ u.rst = false := by cases u.rst <;> simp
  · have hsel : select u = .word (.pin 1#1) u := by simp [select, hr]
    rw [hsel] at h
    exact .inl ⟨hr, by simpa [decode, decodePin] using h⟩
  obtain hs | ⟨k, hs⟩ : u.strobe = none ∨ ∃ k, u.strobe = some k := by cases u.strobe <;> simp
  · have hsel : select u = selectHost u := by simp [select, hr, hs]
    obtain hc | ⟨op, rest, hc⟩ : u.script = [] ∨ ∃ op rest, u.script = op :: rest := by cases u.script <;> simp
    · exact .inr (.inr (.inr ⟨hr, hs, hblock (w := selectHost u) (by simp [selectHost, hc]) hsel.symm⟩))
    cases op with
    | wt a len =>
      rw [hsel] at h
      simp only [selectHost, hc, decode_cmd] at h
      exact .inr (.inr (.inl ⟨hr, hs, rest, .inl ⟨a, len, hc, h⟩⟩))
    | writeTransaction a len =>
      rw [hsel] at h
      simp only [selectHost, hc] at h
      exact .inr (.inr (.inl ⟨hr, hs, rest, .inr (.inl ⟨a, len, hc, h⟩)⟩))
    | poke i b =>
      rw [hsel] at h
      simp only [selectHost, hc] at h
      exact .inr (.inr (.inl ⟨hr, hs, rest, .inr (.inr (.inl ⟨i, b, hc, h⟩))⟩))
    | wait =>
      obtain hb | hb : u.busy = true ∨ u.busy = false := by cases u.busy <;> simp
      · exact .inr (.inr (.inr ⟨hr, hs, hblock (w := selectHost u) (by simp [selectHost, hc, hb]) hsel.symm⟩))
      · rw [hsel] at h
        simp only [selectHost, hc, if_neg (show ¬ u.busy = true by simp [hb])] at h
        exact .inr (.inr (.inl ⟨hr, hs, rest, .inr (.inr (.inr (.inl ⟨hb, hc, h⟩)))⟩))
    | readErr =>
      obtain hb | hb : u.busy = true ∨ u.busy = false := by cases u.busy <;> simp
      · exact .inr (.inr (.inr ⟨hr, hs, hblock (w := selectHost u) (by simp [selectHost, hc, hb]) hsel.symm⟩))
      · rw [hsel] at h
        simp only [selectHost, hc, if_neg (show ¬ u.busy = true by simp [hb])] at h
        exact .inr (.inr (.inl ⟨hr, hs, rest, .inr (.inr (.inr (.inr ⟨hb, hc, h⟩)))⟩))
  · have hsel : select u = .word (.prim k.word k.operand) { u with strobe := none } := by simp [select, hr, hs]
    rw [hsel] at h
    simp only [decode] at h
    split at h
    · rename_i i hi
      exact .inr (.inl ⟨hr, k, i, hs, hi, h⟩)
    · cases h

end Sys2Proof.Machine
end

