-- ==== Sys2Proof/Laws/Block.lean ====
section
/-! SUPPORT. What the block's own step can do from a sound state, said once, with every field that changes. -/

namespace Sys2Proof.Machine

/-- An invocation that answers a next state ran its operation and cleared the flag, or was not enabled. -/
theorem invoke_next {op : State → Result} {s t : State} (h : invoke op s = .next t) :
    (s.ifg = true ∧ s.gie = true ∧ ∃ u, op s = .next u ∧ t = clearIfg u) ∨
      ((s.ifg = false ∨ s.gie = false) ∧ t = s) := by
  obtain ⟨hi, hg⟩ | hd : (s.ifg = true ∧ s.gie = true) ∨ (s.ifg = false ∨ s.gie = false) := by
    cases s.ifg <;> cases s.gie <;> simp
  · rw [invoke_enabled op hi hg] at h
    refine .inl ⟨hi, hg, ?_⟩
    revert h
    cases op s <;> simp [controllerReturn, eq_comm]
  · rw [invoke_disabled op hd] at h
    cases h
    exact .inr ⟨hd, rfl⟩

/-- The six things the block's own step can do from a sound state, and doing nothing: start, open an acknowledge slot,
load a payload byte, end the transaction, use an answer that withholds the clock, clock a bit. -/
theorem block_cases {u t : State} (hI : BlockInv u)
    (h : (u.ifg = true ∧ u.gie = true ∧ exec (decodePhase u.phase (nack u) (last u)) u = .next t) ∨
      (u.ifg = false ∧ cnt u ≠ 0#5 ∧ exec (if u.oe then .txBit else .rxBit) u = .next t) ∨ t = u) :
    t = u ∨
    (u.ifg = true ∧ u.phase = 0b000#3 ∧
      t = { u with
        sr := u.addrByte, oe := true, ge := false, sdaq := false, cntreg := withCount u.cntreg 8#8, phase := 0b001#3,
        ifg := false, events := u.events ++ [.pins ⟨!u.sdaq, !u.sclq⟩, .pins ⟨true, !u.sclq⟩, .sym .start] }) ∨
    (u.ifg = true ∧ (u.phase = 0b001#3 ∨ u.phase = 0b011#3) ∧
      t = { u with
        oe := false, cntreg := withCount u.cntreg 1#8, phase := u.phase + 1#3, ifg := false,
        events := u.events ++ [.pins ⟨false, !u.sclq⟩] }) ∨
    (u.ifg = true ∧ (u.phase = 0b010#3 ∨ u.phase = 0b100#3) ∧ nack u = false ∧ u.cursor < u.len ∧
      t = { u with
        oe := true, err := false, sr := Memory.read u.payload u.cursor, cursor := (u.cursor + 1) % 2 ^ u.lenw,
        reads := u.reads ++ [u.cursor], cntreg := withCount u.cntreg 8#8, phase := 0b011#3, ifg := false,
        events := u.events ++ [.pins ⟨!u.sdaq, !u.sclq⟩] }) ∨
    (u.ifg = true ∧ (u.phase = 0b010#3 ∨ u.phase = 0b100#3) ∧
      (nack u = false → u.phase = 0b100#3 ∧ u.cursor = u.len) ∧
      t = { u with
        err := nack u, sr := 0xFF#8, oe := false, sdaq := true, sclq := true, phase := 0b000#3, busy := false,
        ifg := false, wakes := if u.busy then u.wakes + 1 else u.wakes,
        events := u.events ++
          [.pins ⟨!u.sdaq, !u.sclq⟩, .pins ⟨true, !u.sclq⟩, .pins ⟨true, false⟩, .pins ⟨false, false⟩, .sym .stop,
            .pins ⟨false, false⟩] }) ∨
    (u.ifg = false ∧ cnt u ≠ 0#5 ∧ t = afterAnswer u) ∨
    (u.ifg = false ∧ cnt u ≠ 0#5 ∧
      t = clockBit (if u.oe then fun d _ => .tx d else fun _ b => .rx b) (answer u).tSda (afterAnswer u)) := by
  have hge : u.ge = false := hI.1.2.1
  obtain ⟨hi, hg, h⟩ | ⟨hi, hc, h⟩ | h := h
  · right
    have hp : PhaseLegal u := hI.1.1
    rcases hp with hp | hp | hp | hp | hp
    · left
      rw [hp] at h
      simp [decodePhase, exec, execPhStart, invoke_enabled _ hi hg, controllerReturn, startGen_eq hge, loadSr, setPhase,
        loadCnt, clearIfg] at h
      exact ⟨hi, hp, h.symm⟩
    · right; left
      rw [hp] at h
      simp [decodePhase, exec, execPhAddrAck, invoke_enabled _ hi hg, controllerReturn, openAckSlot, setPhase, loadCnt,
        clearIfg, dirIn, setOe, noteLevel, level, sdaPull, sclPull] at h
      exact ⟨hi, .inl hp, by rw [← h, hp]; rfl⟩
    · right; right
      rw [hp] at h
      cases hn : nack u
      · left
        simp [decodePhase, hn, exec, execPhAddrCheckAck, invoke_enabled _ hi hg, sendPayloadByte_eq hge] at h
        split at h
        · simp [controllerReturn, clearIfg] at h
          exact ⟨hi, .inl hp, rfl, ‹_›, h.symm⟩
        · simp [controllerReturn] at h
      · right; left
        simp [decodePhase, hn, exec, execPhAddrCheckNack, invoke_enabled _ hi hg, controllerReturn] at h
        rw [stopActions_eq (by simpa using hge)] at h
        simp [clearIfg, takeError, dirOut, setOe, noteLevel, level, sdaPull, sclPull] at h
        refine ⟨hi, .inl hp, by simp, by rw [← h, hge]⟩
    · right; left
      rw [hp] at h
      simp [decodePhase, exec, execPhDataAck, invoke_enabled _ hi hg, controllerReturn, openAckSlot, setPhase, loadCnt,
        clearIfg, dirIn, setOe, noteLevel, level, sdaPull, sclPull] at h
      exact ⟨hi, .inr hp, by rw [← h, hp]; rfl⟩
    · right; right
      rw [hp] at h
      cases hn : nack u
      · cases hl : last u
        · left
          simp [decodePhase, hn, hl, exec, execPhDataCheckNext, invoke_enabled _ hi hg, sendPayloadByte_eq hge] at h
          split at h
          · simp [controllerReturn, clearIfg] at h
            exact ⟨hi, .inr hp, rfl, ‹_›, h.symm⟩
          · simp [controllerReturn] at h
        · right; left
          simp [decodePhase, hn, hl, exec, execPhDataCheckLast, invoke_enabled _ hi hg, controllerReturn] at h
          rw [stopActions_eq (by simpa using hge)] at h
          simp [clearIfg, clearErr, dirOut, setOe, noteLevel, level, sdaPull, sclPull] at h
          refine ⟨hi, .inr hp, fun _ => ⟨hp, by simpa [last] using hl⟩, by rw [← h, hge]⟩
      · right; left
        simp [decodePhase, hn, exec, execPhDataCheckNack, invoke_enabled _ hi hg, controllerReturn] at h
        rw [stopActions_eq (by simpa using hge)] at h
        simp [clearIfg, takeError, dirOut, setOe, noteLevel, level, sdaPull, sclPull] at h
        refine ⟨hi, .inr hp, by simp, by rw [← h, hge]⟩
  · iterate 5 right
    cases ho : u.oe <;> simp only [ho, exec, execTxBit, execRxBit, if_true, Bool.false_eq_true, if_false] at h
    all_goals
      obtain ⟨_, _, _, he⟩ | ⟨_, _, _, he⟩ | ⟨hd, he⟩ := seqStep_cases _ _ u <;> rw [he] at h <;> cases h
    · exact .inr ⟨hi, hc, rfl⟩
    · exact .inl ⟨hi, hc, rfl⟩
    · simp [seqEnabled, hi, hc, ho] at hd
    · exact .inr ⟨hi, hc, rfl⟩
    · exact .inl ⟨hi, hc, rfl⟩
    · simp [seqEnabled, hi, hc, ho] at hd
  · exact .inl h

end Sys2Proof.Machine
end

