-- ==== Sys2Proof/Laws/Memory.lean ====
section
/-! SUPPORT. The payload space: read after write, and the canonical form (20_memory.md R61). -/

namespace Sys2Proof.Machine

/-- Nothing is listed at or below the bound of a canonical list. -/
theorem Memory.read_below {lenw : Nat} {m : List Host.Cell} {lo a : Nat} (h : Memory.wfAbove lenw (some lo) m = true) (ha : a ≤ lo) :
    Memory.read m a = Config.unlistedByte := by
  induction m generalizing lo with
  | nil => rfl
  | cons c rest ih =>
    obtain ⟨k, v⟩ := c
    simp only [Memory.wfAbove, Bool.and_eq_true, decide_eq_true_eq] at h
    have hk : k ≠ a := by omega
    simp only [Memory.read, hk, if_false]
    exact ih h.2 (by omega)

/-- Reading a byte of a list headed by a kept cell. -/
theorem Memory.read_cons (a : Nat) (b : Byte) (rest : List Host.Cell) (x : Nat)
    (h : a = x → b = Config.unlistedByte → Memory.read rest x = Config.unlistedByte) :
    Memory.read (Memory.cons a b rest) x = if a = x then b else Memory.read rest x := by
  unfold Memory.cons
  split
  · rename_i hb
    by_cases hx : a = x
    · simp [hx, hb, h hx hb]
    · simp [hx]
  · rfl

/-- A canonical list above a bound is canonical above any lower one. -/
theorem Memory.wfAbove_weaken {lenw : Nat} {m : List Host.Cell} {lo : Option Nat} {hi : Nat}
    (h : Memory.wfAbove lenw (some hi) m = true) (hlo : ∀ l, lo = some l → l ≤ hi) : Memory.wfAbove lenw lo m = true := by
  cases m with
  | nil => rfl
  | cons c rest =>
    obtain ⟨k, v⟩ := c
    simp only [Memory.wfAbove, Bool.and_eq_true, decide_eq_true_eq] at h ⊢
    refine ⟨⟨⟨?_, h.1.1.2⟩, h.1.2⟩, h.2⟩
    cases lo with
    | none => rfl
    | some l => simp only [decide_eq_true_eq]; have := hlo l rfl; omega

/-- A cell before a canonical list gives a canonical list. -/
theorem Memory.wfAbove_cons {lenw : Nat} {rest : List Host.Cell} {lo : Option Nat} {a : Nat} {b : Byte} (ha : a < 2 ^ lenw)
    (hlo : ∀ l, lo = some l → l < a) (h : Memory.wfAbove lenw (some a) rest = true) :
    Memory.wfAbove lenw lo (Memory.cons a b rest) = true := by
  unfold Memory.cons
  split
  · exact Memory.wfAbove_weaken h fun l hl => Nat.le_of_lt (hlo l hl)
  · rename_i hb
    simp only [Memory.wfAbove, Bool.and_eq_true, decide_eq_true_eq, bne_iff_ne]
    refine ⟨⟨⟨?_, ha⟩, hb⟩, h⟩
    cases lo with
    | none => rfl
    | some l => simpa using hlo l rfl

/-- Writing keeps the canonical form above a bound the address respects. -/
theorem Memory.wfAbove_write {lenw : Nat} {m : List Host.Cell} {lo : Option Nat} {a : Nat} {b : Byte} (ha : a < 2 ^ lenw)
    (hlo : ∀ l, lo = some l → l < a) (h : Memory.wfAbove lenw lo m = true) :
    Memory.wfAbove lenw lo (Memory.write m a b) = true := by
  induction m generalizing lo with
  | nil => exact Memory.wfAbove_cons ha hlo rfl
  | cons c rest ih =>
    obtain ⟨k, v⟩ := c
    have h' := h
    simp only [Memory.wfAbove, Bool.and_eq_true, decide_eq_true_eq] at h'
    simp only [Memory.write]
    split
    · rename_i hlt
      refine Memory.wfAbove_cons ha hlo ?_
      simp only [Memory.wfAbove, Bool.and_eq_true, decide_eq_true_eq]
      exact ⟨⟨⟨hlt, h'.1.1.2⟩, h'.1.2⟩, h'.2⟩
    · split
      · rename_i _ heq
        subst heq
        exact Memory.wfAbove_cons ha hlo h'.2
      · rename_i h1 h2
        simp only [Memory.wfAbove, Bool.and_eq_true, decide_eq_true_eq]
        exact ⟨h'.1, ih (fun l hl => by cases hl; omega) h'.2⟩

/-- Writing keeps the canonical form: the one memory operation there is. -/
theorem Memory.wf_write {lenw : Nat} {m : List Host.Cell} {a : Nat} {b : Byte} (ha : a < 2 ^ lenw) (h : Memory.wf lenw m = true) :
    Memory.wf lenw (Memory.write m a b) = true :=
  Memory.wfAbove_write ha (fun _ hl => by cases hl) h

/-- What a byte reads as after a write, for a canonical list above a bound. -/
theorem Memory.read_write_above {lenw : Nat} {m : List Host.Cell} {lo : Option Nat} (a : Nat) (b : Byte) (x : Nat)
    (h : Memory.wfAbove lenw lo m = true) :
    Memory.read (Memory.write m a b) x = if a = x then b else Memory.read m x := by
  induction m generalizing lo with
  | nil => exact Memory.read_cons a b [] x fun _ _ => rfl
  | cons c rest ih =>
    obtain ⟨k, v⟩ := c
    have h' := h
    simp only [Memory.wfAbove, Bool.and_eq_true, decide_eq_true_eq] at h'
    simp only [Memory.write]
    split
    · rename_i hlt
      refine Memory.read_cons a b _ x fun hax _ => ?_
      have hk : k ≠ x := by omega
      simp only [Memory.read, hk, if_false]
      exact Memory.read_below h'.2 (by omega)
    · split
      · rename_i _ heq
        subst heq
        rw [Memory.read_cons a b rest x fun hax _ => Memory.read_below h'.2 (by omega)]
        by_cases hx : a = x <;> simp [Memory.read, hx]
      · rename_i h1 h2
        by_cases hx : k = x
        · have : a ≠ x := by omega
          simp [Memory.read, hx, this]
        · simp [Memory.read, hx, ih h'.2]

/-- The byte written reads back, and every other byte reads as before. -/
theorem Memory.read_write {lenw : Nat} {m : List Host.Cell} (a : Nat) (b : Byte) (x : Nat) (h : Memory.wf lenw m = true) :
    Memory.read (Memory.write m a b) x = if a = x then b else Memory.read m x :=
  Memory.read_write_above a b x h

end Sys2Proof.Machine
end

