-- ==== Sys2Proof/Laws/PerInstr.lean ====
section
/-! SUPPORT. One statement for every operation, about its encoding alone: it agrees with the operation's row of
spec/opcode_table.json, format, mask and pattern, and a row without an encoding has none. -/

namespace Sys2Proof.Laws.EncodedFormat

/-- The formats of the opcode table that have a word. -/
inductive Format where
  | cmd
  | dw
  | seq
  | prim
  | pin
  deriving DecidableEq, Repr

/-- A row of the opcode table: the format, `mask`, `match`. -/
structure TableRow where
  format : Format
  mask : Nat
  pattern : Nat
  deriving DecidableEq, Repr

/-- The format of a word. -/
def formatOf : OpWord → Format
  | .cmd _ _ _ => .cmd
  | .dw _ => .dw
  | .seq _ => .seq
  | .prim _ _ => .prim
  | .pin _ => .pin

/-- The bits of a word, numbered as the opcode table numbers them. -/
def bitsOf : OpWord → Nat
  | .cmd valid a len => packCmd 8 valid a len
  | .dw w => w.toNat
  | .seq w => w.toNat
  | .prim w _ => w.toNat
  | .pin w => w.toNat

/-- The rows of the opcode table; `none` where it says `"encoding": "none"`. -/
def tableRow : Instr → Option TableRow
  | .wt _ _ => some ⟨.cmd, 0x8000, 0x8000⟩
  | .phStart => some ⟨.dw, 0x1C, 0x00⟩
  | .phAddrAck => some ⟨.dw, 0x1C, 0x04⟩
  | .phAddrCheckAck => some ⟨.dw, 0x1E, 0x08⟩
  | .phAddrCheckNack => some ⟨.dw, 0x1E, 0x0A⟩
  | .phDataAck => some ⟨.dw, 0x1C, 0x0C⟩
  | .phDataCheckNext => some ⟨.dw, 0x1F, 0x10⟩
  | .phDataCheckLast => some ⟨.dw, 0x1F, 0x11⟩
  | .phDataCheckNack => some ⟨.dw, 0x1E, 0x12⟩
  | .reserved101 => some ⟨.dw, 0x1C, 0x14⟩
  | .reserved11x => some ⟨.dw, 0x18, 0x18⟩
  | .txBit => some ⟨.seq, 0x1, 0x1⟩
  | .rxBit => some ⟨.seq, 0x1, 0x0⟩
  | .dirOut => some ⟨.prim, 0x3FF, 0x200⟩
  | .dirIn => some ⟨.prim, 0x3FF, 0x100⟩
  | .loadSr _ => some ⟨.prim, 0x3FF, 0x080⟩
  | .loadCnt _ => some ⟨.prim, 0x3FF, 0x040⟩
  | .readRx => some ⟨.prim, 0x3FF, 0x020⟩
  | .raiseIfg => some ⟨.prim, 0x3FF, 0x010⟩
  | .clearIfg => some ⟨.prim, 0x3FF, 0x008⟩
  | .latchOpen => some ⟨.prim, 0x3FF, 0x004⟩
  | .latchClose => some ⟨.prim, 0x3FF, 0x002⟩
  | .sclRelease => some ⟨.prim, 0x3FF, 0x001⟩
  | .startGen => none
  | .stopGen => none
  | .stopActions => none
  | .reset => some ⟨.pin, 0x1, 0x1⟩
  | .wait => none
  | .readErr => none
  | .writeTransaction _ _ => none

/-- An operation is encoded exactly where its row has an encoding, in that row's format, with the fixed bits that the
row's mask and pattern give. -/
def Statement (i : Instr) : Prop :=
  (encode i).isSome = (tableRow i).isSome ∧
    ∀ w r, encode i = some w → tableRow i = some r → formatOf w = r.format ∧ bitsOf w &&& r.mask = r.pattern

/-- A row with an encoding. -/
theorem of_encoded {i : Instr} {w : OpWord} {r : TableRow} (he : encode i = some w) (ht : tableRow i = some r)
    (hf : formatOf w = r.format) (hb : bitsOf w &&& r.mask = r.pattern) : Statement i := by
  refine ⟨by rw [he, ht]; rfl, fun w' r' hw hr => ?_⟩
  cases he.symm.trans hw
  cases ht.symm.trans hr
  exact ⟨hf, hb⟩

/-- A row without an encoding. -/
theorem of_unencoded {i : Instr} (he : encode i = none) (ht : tableRow i = none) : Statement i :=
  ⟨by rw [he, ht]; rfl, fun _ _ hw => by rw [he] at hw; cases hw⟩

/-- `cmd_valid` is bit 15 of a packed command. -/
theorem packCmd_valid (a : Addr) (len : Nat) : packCmd 8 1#1 a len &&& 0x8000 = 0x8000 := by
  have ha := a.isLt
  rw [show (0x8000 : Nat) = 2 ^ 15 from rfl, Nat.and_two_pow, Nat.testBit_eq_decide_div_mod_eq, packCmd]
  rw [show ((1#1).toNat * 128 + a.toNat) * 2 ^ 8 + len % 2 ^ 8 = (128 + a.toNat) * 256 + len % 256 from rfl]
  rw [show ((128 + a.toNat) * 256 + len % 256) / 2 ^ 15 % 2 = 1 by omega]
  rfl

theorem wt (a : Addr) (len : Nat) : Statement (.wt a len) := of_encoded rfl rfl rfl (packCmd_valid a len)
theorem phStart : Statement .phStart := of_encoded rfl rfl rfl (by decide)
theorem phAddrAck : Statement .phAddrAck := of_encoded rfl rfl rfl (by decide)
theorem phAddrCheckAck : Statement .phAddrCheckAck := of_encoded rfl rfl rfl (by decide)
theorem phAddrCheckNack : Statement .phAddrCheckNack := of_encoded rfl rfl rfl (by decide)
theorem phDataAck : Statement .phDataAck := of_encoded rfl rfl rfl (by decide)
theorem phDataCheckNext : Statement .phDataCheckNext := of_encoded rfl rfl rfl (by decide)
theorem phDataCheckLast : Statement .phDataCheckLast := of_encoded rfl rfl rfl (by decide)
theorem phDataCheckNack : Statement .phDataCheckNack := of_encoded rfl rfl rfl (by decide)
theorem reserved101 : Statement .reserved101 := of_encoded rfl rfl rfl (by decide)
theorem reserved11x : Statement .reserved11x := of_encoded rfl rfl rfl (by decide)
theorem txBit : Statement .txBit := of_encoded rfl rfl rfl (by decide)
theorem rxBit : Statement .rxBit := of_encoded rfl rfl rfl (by decide)
theorem dirOut : Statement .dirOut := of_encoded rfl rfl rfl (by decide)
theorem dirIn : Statement .dirIn := of_encoded rfl rfl rfl (by decide)
theorem loadSr (v : Byte) : Statement (.loadSr v) := of_encoded rfl rfl rfl (by simp [bitsOf])
theorem loadCnt (n : Byte) : Statement (.loadCnt n) := of_encoded rfl rfl rfl (by simp [bitsOf])
theorem readRx : Statement .readRx := of_encoded rfl rfl rfl (by decide)
theorem raiseIfg : Statement .raiseIfg := of_encoded rfl rfl rfl (by decide)
theorem clearIfg : Statement .clearIfg := of_encoded rfl rfl rfl (by decide)
theorem latchOpen : Statement .latchOpen := of_encoded rfl rfl rfl (by decide)
theorem latchClose : Statement .latchClose := of_encoded rfl rfl rfl (by decide)
theorem sclRelease : Statement .sclRelease := of_encoded rfl rfl rfl (by decide)
theorem startGen : Statement .startGen := of_unencoded rfl rfl
theorem stopGen : Statement .stopGen := of_unencoded rfl rfl
theorem stopActions : Statement .stopActions := of_unencoded rfl rfl
theorem reset : Statement .reset := of_encoded rfl rfl rfl (by decide)
theorem wait : Statement .wait := of_unencoded rfl rfl
theorem readErr : Statement .readErr := of_unencoded rfl rfl
theorem writeTransaction (a : Addr) (len : Nat) : Statement (.writeTransaction a len) := of_unencoded rfl rfl

end Sys2Proof.Laws.EncodedFormat
end

