-- ==== Sys2Proof/Laws/Trace.lean ====
section
/-! SUPPORT. Records of events and the two readers of them, over appending (20_memory.md R73, R76). -/

namespace Sys2Proof.Machine

/-- The symbols of a record appended to. -/
@[simp] theorem symbols_append (a b : List Event) : symbols (a ++ b) = symbols a ++ symbols b := by
  induction a with
  | nil => rfl
  | cons e a ih => cases e <;> simp [symbols, ih]

/-- The trace of a record that ends in `b`. -/
theorem wire_of_events {s t : State} {b : List Event} (h : t.events = s.events ++ b) :
    wire t = wire s ++ symbols b := by
  simp [wire, h]

/-- Reading on where a trace was read before. -/
theorem WireState.run_append {w v : WireState} {a : List Sym} (b : List Sym) (h : w.run a = some v) :
    w.run (a ++ b) = v.run b := by
  induction a generalizing w with
  | nil => cases h; rfl
  | cons y a ih =>
    simp only [WireState.run, List.cons_append] at h ⊢
    split at h
    · exact ih h
    · cases h

/-- Reading on where a record was read before. -/
theorem Framing.run_append {f g : Framing} {a : List Event} (b : List Event) (h : f.run a = some g) :
    f.run (a ++ b) = g.run b := by
  induction a generalizing f with
  | nil => cases h; rfl
  | cons e a ih =>
    simp only [Framing.run, List.cons_append] at h ⊢
    split at h
    · exact ih h
    · cases h

end Sys2Proof.Machine
end

