-- ==== Sys2Proof/WellFormed.lean ====
section
/-! DEFINITION. Which operations are legal as written (30_encoding.md R81, R89; 93 U2, U9). The machine does not
check this; a violated duty of the caller is a fault of the meaning itself. -/

namespace Sys2Proof

/-- `MAXLEN = 2^LENW - 1` (R7). -/
def maxLen (lenw : Nat) : Nat := 2 ^ lenw - 1

/-- A length is legal from 1 to `MAXLEN` (R24, R81); 0 is illegal. -/
def legalLength (lenw len : Nat) : Bool := decide (1 ≤ len) && decide (len ≤ maxLen lenw)

/-- A count is a `LOAD_CNT` operand of the 5-bit field, 0 to 31 (R103, U9). -/
def legalCount (n : Byte) : Bool := n.ule 31#8

/-- The operands are in the range their rule gives, for a block of width `LENW`. -/
def WellFormed (lenw : Nat) : Instr → Bool
  | .wt _ len => legalLength lenw len
  | .phStart => true
  | .phAddrAck => true
  | .phAddrCheckAck => true
  | .phAddrCheckNack => true
  | .phDataAck => true
  | .phDataCheckNext => true
  | .phDataCheckLast => true
  | .phDataCheckNack => true
  | .reserved101 => true
  | .reserved11x => true
  | .txBit => true
  | .rxBit => true
  | .dirOut => true
  | .dirIn => true
  | .loadSr _ => true
  | .loadCnt n => legalCount n
  | .readRx => true
  | .raiseIfg => true
  | .clearIfg => true
  | .latchOpen => true
  | .latchClose => true
  | .sclRelease => true
  | .startGen => true
  | .stopGen => true
  | .stopActions => true
  | .reset => true
  | .wait => true
  | .readErr => true
  | .writeTransaction _ len => legalLength lenw len

end Sys2Proof
end

