-- ==== Sys2Proof/Tests/Slice0.lean ====
section
/-! SUPPORT. Small tests, and a witness for the hypotheses of every statement of Obligations.lean that has some.
Expected values come from spec/95_test_vectors.md and spec/30_encoding.md, named at each test. -/

open Sys2Proof Sys2Proof.Machine

namespace Sys2Proof.Tests

/-- The outcome is a next state that passes a check. -/
def nextIs (o : Result) (p : State → Bool) : Bool :=
  match o with
  | .next t => p t
  | .fault _ => false
  | .refused _ => false

/-- The outcome is this fault. -/
def faultIs (o : Result) (f : Fault) : Bool :=
  match o with
  | .next _ => false
  | .fault g => g == f
  | .refused _ => false

theorem of_nextIs {o : Result} {p : State → Bool} (h : nextIs o p = true) : ∃ t, o = .next t ∧ p t = true := by
  cases o with
  | next t => exact ⟨t, rfl, h⟩
  | fault _ => cases h
  | refused _ => cases h

/-- The block in flight, written as the tables of 95_test_vectors.md write it: `ADDRBYTE` 0xE8, `GE` 0. -/
def mid (phase : PhaseCode) (cursor len : Nat) (sr cntreg : Byte) (oe sdaq sclq ifg err : Bool) : State :=
  { State.reset with
    phase := phase, cursor := cursor, addrByte := 0xE8#8, len := len, sr := sr, cntreg := cntreg, oe := oe, sdaq := sdaq,
    sclq := sclq, ifg := ifg, err := err, busy := true, payload := [(0, 0x02#8)] }

/-- The columns of 95_test_vectors.md 2.5 after an operation, `IFG` 0 and `GE` 0. -/
def shows (phase : PhaseCode) (cursor len : Nat) (sr cntreg : Byte) (oe sdaq sclq err busy : Bool) (t : State) : Bool :=
  t.phase == phase && t.cursor == cursor && t.len == len && t.sr == sr && t.cntreg == cntreg && t.oe == oe &&
  t.sdaq == sdaq && t.sclq == sclq && t.err == err && t.busy == busy && !t.ifg && !t.ge

/-- The peripheral's registers alone. -/
def pins (sr cntreg : Byte) (oe ge sdaq sclq ifg : Bool) : State :=
  { State.reset with sr := sr, cntreg := cntreg, oe := oe, ge := ge, sdaq := sdaq, sclq := sclq, ifg := ifg }

/-- Answers that let the clock rise. -/
def answers (bits : List Bool) : List Answer := bits.map (fun b => ⟨b, true⟩)

/-- The address byte about to be sent, the target acknowledging what follows. -/
def sending : State :=
  { mid 0b001#3 0 2 0xE8#8 0x08#8 true false true false false with
    oracle := answers [true, true, true, true, true, true, true, true, false],
    events := [.pins ⟨false, false⟩, .pins ⟨true, false⟩, .sym .start] }

/-- The state before the last invocation of a transaction of two bytes (95_test_vectors.md P1, invocation 7). -/
def ending7 : State :=
  { mid 0b100#3 2 2 0x00#8 0x00#8 false false false true false with
    events := [.pins ⟨false, false⟩, .pins ⟨true, false⟩, .sym .start] ++
      (byteBits 0xE8#8 ++ [Sym.rx false] ++ byteBits 0x02#8 ++ [Sym.rx false] ++ byteBits 0x00#8 ++
        [Sym.rx false]).map Event.sym ++
      [.pins ⟨false, true⟩] }

/-- Idle, with a write transaction as the host's next statement. -/
def calling (a : Addr) (len : Nat) (o : List Answer) : State :=
  { State.reset with script := [.writeTransaction a len], payload := [(0, 0x02#8)], oracle := o }

/-! ## Well-formedness: an ill-formed term for each check -/

theorem test_wf_length_zero : WellFormed 8 (.wt 0x10#7 0) = false ∧ WellFormed 8 (.wt 0x10#7 1) = true := by decide

theorem test_wf_transaction_length_zero :
    WellFormed 8 (.writeTransaction 0x10#7 0) = false ∧ WellFormed 8 (.writeTransaction 0x10#7 255) = true := by decide

/-- 10_state.md R24, 42_transaction_initiator.md R141 (d): `MAXLEN` at two widths. -/
theorem test_wf_length_over_maxlen :
    WellFormed 8 (.wt 0x10#7 256) = false ∧ WellFormed 9 (.wt 0x10#7 256) = true ∧
    WellFormed 9 (.wt 0x10#7 512) = false := by decide

theorem test_wf_count_over_31 : WellFormed 8 (.loadCnt 32#8) = false ∧ WellFormed 8 (.loadCnt 31#8) = true := by decide

/-! ## Decoding, by words written out from R81, R88, R90, R91 -/

/-- R81, packed at `LENW` = 8 as the opcode table packs it: valid, address 0x74 = 1110100, length 2 (95_test_vectors.md
P1); and at another width. -/
theorem test_decode_cmd :
    decode (unpackCmd 8 0b1111010000000010) = .ok (.wt 0x74#7 2) ∧
    decode (unpackCmd 8 0b1111111111111111) = .ok (.wt 0x7F#7 255) ∧
    decode (unpackCmd 8 0b0111010000000010) = .error .noCommand ∧
    decode (unpackCmd 12 0b11110100000100000001) = .ok (.wt 0x74#7 257) := by
  exact ⟨rfl, rfl, rfl, rfl⟩

/-- R88: one word of each row of the dispatch map, the don't-care bits set. -/
theorem test_decode_dw :
    [decodeDw 0b00011#5, decodeDw 0b00111#5, decodeDw 0b01001#5, decodeDw 0b01011#5, decodeDw 0b01111#5,
      decodeDw 0b10000#5, decodeDw 0b10001#5, decodeDw 0b10011#5, decodeDw 0b10111#5, decodeDw 0b11011#5,
      decodeDw 0b11111#5] =
    [.phStart, .phAddrAck, .phAddrCheckAck, .phAddrCheckNack, .phDataAck, .phDataCheckNext, .phDataCheckLast,
      .phDataCheckNack, .reserved101, .reserved11x, .reserved11x] := by decide

/-- R91, R88. -/
theorem test_decode_seq_pin :
    decode (.seq 0b1#1) = .ok .txBit ∧ decode (.seq 0b0#1) = .ok .rxBit ∧ decode (.pin 0b1#1) = .ok .reset ∧
    decode (.pin 0b0#1) = .error .noReset := by
  exact ⟨rfl, rfl, rfl, rfl⟩

/-- R90, the first five strobes; `LOAD_SR` and `LOAD_CNT` take the operand. -/
theorem test_decode_prim_high :
    decode (.prim 0b1000000000#10 0#8) = .ok .dirOut ∧ decode (.prim 0b0100000000#10 0#8) = .ok .dirIn ∧
    decode (.prim 0b0010000000#10 0xE8#8) = .ok (.loadSr 0xE8#8) ∧
    decode (.prim 0b0001000000#10 0x08#8) = .ok (.loadCnt 0x08#8) ∧
    decode (.prim 0b0000100000#10 0#8) = .ok .readRx := by
  exact ⟨rfl, rfl, rfl, rfl, rfl⟩

/-- R90, the last five strobes, and a word that is no strobe. -/
theorem test_decode_prim_low :
    decode (.prim 0b0000010000#10 0#8) = .ok .raiseIfg ∧ decode (.prim 0b0000001000#10 0#8) = .ok .clearIfg ∧
    decode (.prim 0b0000000100#10 0#8) = .ok .latchOpen ∧ decode (.prim 0b0000000010#10 0#8) = .ok .latchClose ∧
    decode (.prim 0b0000000001#10 0#8) = .ok .sclRelease ∧
    decode (.prim 0b0000000011#10 0#8) = .error (.notOneHot 0b0000000011#10) := by
  exact ⟨rfl, rfl, rfl, rfl, rfl, rfl⟩

/-- spec/opcode_table.json: a row of each width that can be told by number. -/
theorem test_table_words :
    decodeTableWord 16 0x8000 = some (.wt 0#7 0) ∧ decodeTableWord 8 0x11 = some .phDataCheckLast ∧
    decodeTableWord 16 0x200 = some .dirOut ∧ decodeTableWord 16 0x003 = none ∧ decodeTableWord 8 0x20 = none := by
  exact ⟨rfl, rfl, rfl, rfl, rfl⟩

/-- A table word presented at reset is what the next step runs. -/
theorem test_fetch_word :
    nextIs (step (State.reset.withFetchWord 16 0x200)) (fun t => t.oe) = true ∧
    nextIs (step (State.reset.withFetchWord 8 0x11)) (fun t => wire t == [.stop]) = true ∧
    faultIs (step (State.reset.withFetchWord 8 0x14)) .reservedDispatch = true := by decide

/-! ## The operations -/

/-- 95_test_vectors.md 2.1. -/
theorem test_framer :
    [frameAddress 0x74#7, frameAddress 0x00#7, frameAddress 0x7F#7, frameAddress 0x20#7, frameAddress 0x01#7,
      frameAddress 0x40#7] = [0xE8#8, 0x00#8, 0xFE#8, 0x40#8, 0x02#8, 0x80#8] := by decide

/-- 95_test_vectors.md 2.2, first and second rows. -/
theorem test_wt :
    nextIs (exec (.wt 0x74#7 2) State.reset) (fun t =>
      t.phase == 0#3 && t.cursor == 0 && t.addrByte == 0xE8#8 && t.len == 2 && t.ifg && t.busy && !t.err) = true ∧
    nextIs (exec (.wt 0x74#7 2) { State.reset with err := true }) (fun t => t.err && t.busy) = true := by decide

/-- 95_test_vectors.md 2.2, the last two rows. -/
theorem test_wt_faults :
    faultIs (exec (.wt 0x74#7 2) sending) .commandInFlight = true ∧
    faultIs (exec (.wt 0x10#7 0) State.reset) .zeroLength = true := by decide

/-- R141 (d): a length that the port cannot carry, which a wider port can. -/
theorem test_wt_too_wide :
    nextIs (exec (.wt 0x10#7 256) { State.reset with lenw := 9 }) (fun t => t.len == 256) = true ∧
    (match exec (.wt 0x10#7 256) State.reset with
      | .refused r => r == .widerThanPort
      | .next _ => false
      | .fault _ => false) = true := by decide

/-- R93: the pair `WT; WAIT`. -/
theorem test_write_transaction :
    nextIs (exec (.writeTransaction 0x7F#7 1) State.reset) (fun t =>
      t.addrByte == 0xFE#8 && t.busy && t.script == [.wait]) = true := by decide

/-- 95_test_vectors.md 2.3, `DIR_OUT` and `DIR_IN`. -/
theorem test_direction :
    nextIs (exec .dirOut (pins 0#8 0#8 false false false true false)) (fun t => t.oe && sdaPull t) = true ∧
    nextIs (exec .dirIn (pins 0#8 0#8 true false false true false)) (fun t => !t.oe && !sdaPull t) = true := by decide

/-- 95_test_vectors.md 2.3, `LOAD_SR`. -/
theorem test_load_sr :
    nextIs (exec (.loadSr 0xE8#8) (pins 0#8 0#8 true false false true false)) (fun t => t.sr == 0xE8#8 && !t.sdaq) = true ∧
    nextIs (exec (.loadSr 0xFF#8) (pins 0#8 0#8 true true false true false)) (fun t => t.sr == 0xFF#8 && t.sdaq) = true := by
  decide

/-- 95_test_vectors.md 2.3, `LOAD_CNT`: flags kept, and the mask. -/
theorem test_load_cnt :
    nextIs (exec (.loadCnt 8#8) (pins 0#8 0xE0#8 true false false true false)) (fun t => t.cntreg == 0xE8#8) = true ∧
    nextIs (exec (.loadCnt 8#8) (pins 0#8 0x1F#8 true false false true false)) (fun t => t.cntreg == 0x08#8) = true := by
  decide

/-- 95_test_vectors.md 2.3, `READ_RX`; R144, `READ_ERR`. -/
theorem test_reads :
    nextIs (exec .readRx (pins 0x81#8 0#8 false false true true false)) (fun t =>
      t.rxReads == [0x81#8] && nack t && t.sr == 0x81#8) = true ∧
    nextIs (exec .readErr { State.reset with err := true }) (fun t => t.errReads == [true] && t.err) = true := by decide

/-- 95_test_vectors.md 2.3, `RAISE_IFG` and `CLEAR_IFG`. -/
theorem test_flag_primitives :
    nextIs (exec .raiseIfg (pins 0#8 0#8 false false true true true)) (fun t => t.ifg) = true ∧
    nextIs (exec .clearIfg (pins 0#8 0#8 false false true true true)) (fun t => !t.ifg) = true := by decide

/-- 95_test_vectors.md 2.3, the latch and the clock. -/
theorem test_latch :
    nextIs (exec .latchOpen (pins 0x00#8 0#8 false false true true false)) (fun t => t.ge && !t.sdaq) = true ∧
    nextIs (exec .latchClose (pins 0x00#8 0#8 false true false true false)) (fun t => !t.ge && !t.sdaq) = true ∧
    nextIs (exec .sclRelease (pins 0x00#8 0#8 false false true false false)) (fun t => t.sclq && !sclPull t) = true := by
  decide

/-- 95_test_vectors.md 2.3, the macros. -/
theorem test_condition_macros :
    nextIs (exec .startGen (pins 0xFF#8 0#8 false false true true false)) (fun t =>
      t.sr == 0#8 && t.oe && !t.ge && !t.sdaq && t.sclq && wire t == [.start]) = true ∧
    nextIs (exec .stopGen (pins 0xFE#8 0#8 true false true false false)) (fun t =>
      t.sr == 0xFF#8 && !t.oe && !t.ge && t.sdaq && t.sclq && wire t == [.stop]) = true := by decide

/-- 95_test_vectors.md 2.3, inside `STOP_GEN` from `0xFE 1 0 1 0`: the order of the pin changes and of `P` (R6). -/
theorem test_stop_order :
    nextIs (exec .stopGen (pins 0xFE#8 0#8 true false true false false)) (fun t =>
      t.events == [.pins ⟨true, true⟩, .pins ⟨true, false⟩, .pins ⟨false, false⟩, .sym .stop, .pins ⟨false, false⟩]) =
    true := by decide

/-- R167, after the last acknowledge of 95_test_vectors.md P1. -/
theorem test_stop_actions :
    nextIs (exec .stopActions (mid 0b100#3 2 2 0#8 0#8 true false false true false)) (fun t =>
      t.phase == 0#3 && !t.busy && t.wakes == 1 && t.cursor == 2 && wire t == [.stop]) = true := by decide

/-- 95_test_vectors.md 2.4, `TXBIT`: the last bit of a group, contention, and the flag bits. -/
theorem test_tx_bit :
    nextIs (exec .txBit { pins 0x74#8 0x01#8 true false true false false with oracle := answers [true] }) (fun t =>
      t.sr == 0xE8#8 && t.cntreg == 0#8 && !t.sdaq && !t.sclq && t.ifg && wire t == [.tx false]) = true ∧
    nextIs (exec .txBit { pins 0xE8#8 0x08#8 true false true false false with oracle := answers [false] }) (fun t =>
      t.sr == 0xD0#8 && t.cntreg == 0x07#8 && t.sdaq && !t.ifg && wire t == [.tx true]) = true ∧
    nextIs (exec .txBit { pins 0xFE#8 0xE8#8 true false true false false with oracle := answers [true] }) (fun t =>
      t.sr == 0xFD#8 && t.cntreg == 0xE7#8) = true := by decide

/-- 95_test_vectors.md 2.4, `RXBIT`: acknowledge and not-acknowledge. -/
theorem test_rx_bit :
    nextIs (exec .rxBit { pins 0xE8#8 0x01#8 false false false false false with oracle := answers [false] }) (fun t =>
      t.sr == 0xD0#8 && t.cntreg == 0#8 && t.sdaq && t.ifg && wire t == [.rx false]) = true ∧
    nextIs (exec .rxBit { pins 0x40#8 0x01#8 false false true false false with oracle := answers [true] }) (fun t =>
      t.sr == 0x81#8 && !t.sdaq && t.ifg && wire t == [.rx true]) = true := by decide

/-- 95_test_vectors.md P5, bit 3: the clock withheld. -/
theorem test_withheld_clock :
    nextIs (exec .txBit { mid 1#3 0 2 0xA3#8 0x06#8 true true false false false with oracle := [⟨true, false⟩] }) (fun t =>
      t.sr == 0xA3#8 && t.cntreg == 0x06#8 && !t.sclq && wire t == [] && !t.ifg) = true := by decide

/-- 95_test_vectors.md 2.5, `PH.START` after a transaction. -/
theorem test_ph_start :
    nextIs (exec .phStart (mid 0#3 0 2 0xFF#8 0#8 false true true true true)) (fun t =>
      shows 1#3 0 2 0xE8#8 0x08#8 true false true true true t && wire t == [.start]) = true := by decide

/-- 95_test_vectors.md 2.5, the two acknowledge phases. -/
theorem test_ack_phases :
    nextIs (exec .phAddrAck (mid 1#3 0 2 0xE8#8 0#8 true false false true false))
      (shows 2#3 0 2 0xE8#8 0x01#8 false false false false true) = true ∧
    nextIs (exec .phDataAck (mid 3#3 1 2 0x02#8 0#8 true false false true false))
      (shows 4#3 1 2 0x02#8 0x01#8 false false false false true) = true := by decide

/-- 95_test_vectors.md 2.5, `PH.ADDR_CHECK.ACK` with `ERR` set before, and `PH.ADDR_CHECK.NACK`. -/
theorem test_addr_check :
    nextIs (exec .phAddrCheckAck (mid 2#3 0 2 0xD0#8 0#8 false true false true true)) (fun t =>
      shows 3#3 1 2 0x02#8 0x08#8 true true false false true t && t.reads == [0]) = true ∧
    nextIs (exec .phAddrCheckNack (mid 2#3 0 2 0xD1#8 0#8 false true false true false)) (fun t =>
      shows 0#3 0 2 0xFF#8 0#8 false true true true false t && wire t == [.stop] && t.reads == []) = true := by decide

/-- 95_test_vectors.md 2.5, `PH.DATA_CHECK.NEXT` and `.LAST`. -/
theorem test_data_check_ack :
    nextIs (exec .phDataCheckNext (mid 4#3 1 2 0x04#8 0#8 false false false true false)) (fun t =>
      shows 3#3 2 2 0x00#8 0x08#8 true false false false true t && t.reads == [1]) = true ∧
    nextIs (exec .phDataCheckLast (mid 4#3 2 2 0x00#8 0#8 false false false true false)) (fun t =>
      shows 0#3 2 2 0xFF#8 0#8 false true true false false t && wire t == [.stop]) = true := by decide

/-- 95_test_vectors.md 2.5, `PH.DATA_CHECK.NACK`, where the refused byte was the last. -/
theorem test_data_check_nack :
    nextIs (exec .phDataCheckNack (mid 4#3 2 2 0x01#8 0#8 false false false true false))
      (shows 0#3 2 2 0xFF#8 0#8 false true true true false) = true := by decide

/-- R161. -/
theorem test_reserved :
    faultIs (exec .reserved101 sending) .reservedDispatch = true ∧
    faultIs (exec .reserved11x sending) .reservedDispatch = true := by decide

/-- R142: a free host goes on, a blocked one stays. -/
theorem test_wait :
    nextIs (exec .wait State.reset) (fun t => t.script == []) = true ∧
    nextIs (exec .wait sending) (fun t => t.script == [.wait] && t.busy) = true := by decide

/-- 95_test_vectors.md 2.8, mid-transaction, with `FLAGS_RESET` 111. -/
theorem test_reset :
    nextIs (exec .reset { sending with flagsReset := 0b111#3 }) (fun t =>
      t.phase == 0#3 && t.cntreg == 0xE0#8 && !t.oe && t.sdaq && t.sclq && !t.ifg && !t.err && !t.busy && wire t == [] &&
      t.wakes == 0) = true := by decide

/-- R145, R65: the host's buffer. -/
theorem test_host_buffer :
    nextIs (step { State.reset with script := [.poke 255 0xAA#8] }) (fun t => t.payload == [(255, 0xAA#8)]) = true ∧
    faultIs (step { sending with script := [.poke 255 0xAA#8] }) .payloadWriteInFlight = true := by decide

/-- R90: a word that is not one-hot selects nothing. -/
theorem test_strobe_refused :
    (match step { State.reset with strobe := some ⟨0b11#10, 0#8⟩ } with
      | .refused r => r == .undecodable (.notOneHot 0b11#10)
      | .next _ => false
      | .fault _ => false) = true := by decide

/-! ## Witnesses: concrete states that meet the hypotheses of each statement -/

theorem sending_inv : BlockInv sending := ⟨by decide, by decide, by decide⟩
theorem ending7_inv : BlockInv ending7 := ⟨by decide, by decide, by decide⟩
theorem reset_inv : BlockInv State.reset := ⟨by decide, by decide, by decide⟩
theorem calling_inv (a : Addr) (len : Nat) (o : List Answer) : BlockInv (calling a len o) := reset_inv

theorem witness_ResetPrecedesEveryEvent :
    (samplePins { sending with rst := true }).rst = true ∧
    (samplePins { sending with pins := [⟨true, false⟩] }).rst = true := by decide

theorem witness_LoadShiftRegisterFollowsLatch :
    State.reset.ge = false ∧ (pins 0#8 0#8 true true false true false).ge = true := by decide

theorem witness_StartConditionGenerated :
    State.reset.sclq = true ∧ State.reset.sdaq = true ∧ State.reset.ge = false := by decide

/-- `SDAQ` 1 and 0 before, as in 95_test_vectors.md 2.3. -/
theorem witness_StopConditionGenerated :
    ∀ sdaq : Bool, let s := pins 0x45#8 0#8 true false sdaq false false
      s.oe = true ∧ s.sclq = false ∧ s.ge = false := by decide

theorem witness_StopActionsEndTransaction :
    let s := mid 4#3 2 2 0#8 0#8 true false false true false
    s.oe = true ∧ s.sclq = false ∧ s.ge = false ∧ s.busy = true := by decide

theorem witness_StartPhaseSendsAddressByte :
    let s := mid 0#3 0 2 0#8 0#8 false true true true false
    s.ifg = true ∧ s.gie = true ∧ s.ge = false := by decide

theorem witness_AckPhasesOpenOneBitSlot :
    let s := mid 1#3 0 2 0xE8#8 0#8 true false false true false
    s.ifg = true ∧ s.gie = true := by decide

/-- The first index of the shortest and the last index of the longest payload. -/
theorem witness_AcknowledgedPhasesLoadPayloadByte :
    let s := mid 2#3 0 1 0#8 0#8 false true false true false
    let u := mid 4#3 254 255 0#8 0#8 false true false true false
    (s.ifg = true ∧ s.gie = true ∧ s.ge = false ∧ s.cursor < s.len) ∧
    (u.ifg = true ∧ u.gie = true ∧ u.ge = false ∧ u.cursor < u.len) ∧
    s.len < 2 ^ s.lenw ∧ u.len < 2 ^ u.lenw := by decide

theorem witness_PayloadReadOutOfRangeFaults :
    let s := mid 4#3 255 255 0#8 0#8 false true false true false
    let u := mid 2#3 0 0 0#8 0#8 false true false true false
    (s.ifg = true ∧ s.gie = true ∧ s.len ≤ s.cursor) ∧ (u.ifg = true ∧ u.gie = true ∧ u.len ≤ u.cursor) := by decide

theorem witness_RefusedByteEndsTransaction :
    let s := mid 2#3 0 2 0xD1#8 0#8 false true false true false
    s.ifg = true ∧ s.gie = true ∧ s.ge = false := by decide

theorem witness_LastAcknowledgeEndsTransaction : ending7.ifg = true ∧ ending7.gie = true ∧ ending7.ge = false := by decide

theorem witness_PhaseNeedsEnabledCompletion :
    sending.ifg = false ∧ { ending7 with gie := false }.gie = false := by decide

theorem witness_ReservedWordsFaultAndAreUnreachable :
    PhaseLegal ending7 ∧ ∃ t, exec .phDataCheckLast ending7 = .next t :=
  ⟨by decide, by
    obtain ⟨t, h, _⟩ := of_nextIs (o := exec .phDataCheckLast ending7) (p := fun _ => true) (by decide)
    exact ⟨t, h⟩⟩

/-- The first and the last bit of a byte. -/
theorem witness_TransmitBitStep :
    let s := { sending with cntreg := 0x01#8 }
    (seqEnabled sending = true ∧ sending.oe = true ∧ (answer sending).clockRises = true) ∧
    (seqEnabled s = true ∧ s.oe = true ∧ (answer s).clockRises = true) := by decide

theorem witness_ReceiveBitStep :
    let s := { pins 0xE8#8 0x01#8 false false false false false with oracle := answers [false] }
    seqEnabled s = true ∧ s.oe = false ∧ (answer s).clockRises = true := by decide

theorem witness_WithheldClockChangesNothing :
    let s := { pins 0xE8#8 0x01#8 true false false false false with oracle := [⟨true, false⟩] }
    let u := pins 0xE8#8 0x01#8 false false false false false
    (s.oe = true ∧ seqEnabled s = true ∧ s.oracle = ⟨true, false⟩ :: []) ∧
    (u.oe = false ∧ seqEnabled u = true ∧ u.oracle = []) := by decide

theorem witness_DirectionSelectsBitOperation :
    let u := mid 2#3 0 2 0xE8#8 0x01#8 false false false false false
    (BlockAlone sending ∧ sending.ifg = false ∧ cnt sending ≠ 0#5 ∧ sending.oe = true) ∧
    (BlockAlone u ∧ u.ifg = false ∧ cnt u ≠ 0#5 ∧ u.oe = false) := by decide

theorem witness_BitStepNeedsEnabledSequencer :
    ending7.ifg = true ∧ cnt State.reset = 0#5 ∧ State.reset.oe = false ∧ sending.oe = true := by decide

/-- The count going from 2 to 1, from 1 to 0, and a kick-off. -/
theorem witness_LastBitRaisesCompletion :
    (∃ t, exec .txBit { sending with cntreg := 0x02#8 } = .next t ∧ (!t.ifg) = true) ∧
    (∃ t, exec .txBit { sending with cntreg := 0x01#8 } = .next t ∧ t.ifg = true) ∧
    (∃ t, exec (.wt 0x74#7 2) State.reset = .next t ∧ t.ifg = true) ∧ sending.ifg = false :=
  ⟨of_nextIs (p := fun t => !t.ifg) (by decide), of_nextIs (p := fun t => t.ifg) (by decide),
    of_nextIs (p := fun t => t.ifg) (by decide), rfl⟩

theorem sending_clocked : clocked 8 sending.oracle := by simp [sending, answers, clocked]

theorem witness_TransmitGroupSendsByte :
    BlockAlone sending ∧ sending.ifg = false ∧ cnt sending = 8#5 ∧ sending.oe = true ∧ clocked 8 sending.oracle ∧
    ∀ a ∈ sending.oracle.take 8, a.tSda = true :=
  ⟨by decide, rfl, by decide, rfl, sending_clocked, by decide⟩

theorem witness_KickOffLoadsDescriptor :
    State.reset.busy = false ∧ (1 ≠ 0 ∧ 1 < 2 ^ State.reset.lenw) ∧ (255 ≠ 0 ∧ 255 < 2 ^ State.reset.lenw) := by decide

/-- The length too wide by one, in flight the length 0 and the largest, and free the length 0. -/
theorem witness_CommandDutiesFault :
    2 ^ State.reset.lenw ≤ 256 ∧ (0 < 2 ^ sending.lenw ∧ 255 < 2 ^ sending.lenw ∧ sending.busy = true) ∧
    State.reset.busy = false ∧ faultIs (exec (.wt 0x74#7 0) sending) .commandInFlight = true := by decide

theorem witness_WriteTransactionIsKickOffThenWait :
    State.reset.busy = false ∧ 255 ≠ 0 ∧ 255 < 2 ^ State.reset.lenw := by decide

theorem witness_WaitHoldsWhileBusy :
    State.reset.busy = false ∧
    (let s := { sending with script := [.wait] }
     s.busy = true ∧ s.script = .wait :: [] ∧ s.rst = false ∧ s.strobe = none) := by decide

theorem witness_HostChangesBufferOnlyWhenFree :
    (∀ (busy : Bool), ∀ i ∈ [0, 255], let s := { State.reset with busy := busy, script := [.poke i 0xAA#8] }
      s.rst = false ∧ s.pins = [] ∧ s.strobe = none ∧ i < 2 ^ s.lenw ∧ s.busy = busy ∧
      Memory.wf s.lenw s.payload = true) ∧
    2 ^ State.reset.lenw ≤ 256 := by decide

theorem witness_StepRunsChosenOperation :
    (select (samplePins sending) = .word (.seq 1#1) sending ∧ decode (.seq 1#1) = .ok .txBit) ∧
    select (samplePins (calling 0x74#7 2 [])) =
      .host (.writeTransaction 0x74#7 2) { calling 0x74#7 2 [] with script := [] } :=
  ⟨⟨rfl, rfl⟩, rfl⟩

theorem witness_StepInvokesDispatchedOperation :
    BlockAlone ending7 ∧ ending7.ifg = true ∧ ending7.gie = true := by decide

theorem witness_MaskedOrRestingBlockStays :
    (let s := { ending7 with gie := false }; BlockAlone s ∧ s.ifg = true ∧ s.gie = false) ∧
    BlockAlone State.reset ∧ AtRest State.reset := by decide

theorem witness_StepTakesHostStatement :
    ∀ op ∈ [HostOp.wt 0x74#7 2, .writeTransaction 0x74#7 2, .wait, .readErr],
      let s := { State.reset with script := [op] }
      s.rst = false ∧ s.pins = [] ∧ s.strobe = none ∧ s.script = op :: [] ∧ s.busy = false := by decide

theorem witness_DecodeOfEncodeIsIdentity :
    encode (.wt 0x7F#7 255) = some (.cmd 1#1 0x7F#7 255) ∧ packCmd 8 1#1 0x7F#7 255 = 0xFFFF ∧ 255 < 2 ^ 8 ∧ encode .phDataCheckNack = some (.dw 0b10010#5) ∧
    encode (.loadCnt 255#8) = some (.prim 0b0001000000#10 255#8) := by decide

theorem witness_EncodeOfDecodeIsIdentity :
    decode (.cmd 1#1 0#7 0) = .ok (.wt 0#7 0) ∧ decode (.seq 0#1) = .ok .rxBit ∧ decode (.pin 1#1) = .ok .reset ∧
    decode (.prim 1#10 0xFF#8) = .ok .sclRelease :=
  ⟨rfl, rfl, rfl, rfl⟩

theorem witness_DerivedSignals :
    State.reset.oe = false ∧ (pins 0#8 0#8 true false true true false).oe = true ∧
    (pins 0#8 0#8 true false true true false).sdaq = true ∧ sending.oe = true ∧ sending.sdaq = false ∧
    State.reset.sclq = true ∧ ending7.sclq = false := by decide

theorem step_sending : ∃ t, step sending = .next t ∧ (t.cntreg == 0x07#8) = true :=
  of_nextIs (p := fun t => t.cntreg == 0x07#8) (by decide)

theorem step_ending7 : ∃ t, step ending7 = .next t ∧ (!t.busy) = true :=
  of_nextIs (p := fun t => !t.busy) (by decide)

theorem witness_StepKeepsBoundaryInvariants :
    BlockInv sending ∧ BlockInv ending7 ∧ (∃ t, step sending = .next t) ∧ ∃ t, step ending7 = .next t :=
  ⟨sending_inv, ending7_inv, step_sending.imp fun _ h => h.1, step_ending7.imp fun _ h => h.1⟩

theorem witness_StepKeepsWriteBit : WriteOnly sending ∧ ∃ t, step sending = .next t :=
  ⟨by decide, step_sending.imp fun _ h => h.1⟩

theorem witness_StepKeepsPayloadCanonical : Memory.wf sending.lenw sending.payload = true ∧ ∃ t, step sending = .next t :=
  ⟨by decide, step_sending.imp fun _ h => h.1⟩

theorem witness_StepKeepsFlagBits : FlagsKept sending ∧ ∃ t, step sending = .next t :=
  ⟨by decide, step_sending.imp fun _ h => h.1⟩

theorem witness_StepKeepsTraceShape :
    (BlockInv sending ∧ TraceShaped sending ∧ ∃ t, step sending = .next t) ∧
    (BlockInv ending7 ∧ TraceShaped ending7 ∧ ∃ t, step ending7 = .next t) :=
  ⟨⟨sending_inv, by decide, step_sending.imp fun _ h => h.1⟩, ending7_inv, by decide, step_ending7.imp fun _ h => h.1⟩

theorem witness_StepKeepsFraming :
    (BlockInv sending ∧ FramedAsRecorded sending ∧ ∃ t, step sending = .next t) ∧
    (BlockInv ending7 ∧ FramedAsRecorded ending7 ∧ ∃ t, step ending7 = .next t) :=
  ⟨⟨sending_inv, by decide, step_sending.imp fun _ h => h.1⟩, ending7_inv, by decide, step_ending7.imp fun _ h => h.1⟩

/-- An operation for each clause: a kick-off, the last enabled load there is, a reset, any other operation, and a load
that is not enabled. -/
theorem witness_CursorLaw :
    (∃ t, exec (.wt 0x74#7 2) { State.reset with cursor := 2 } = .next t ∧ (t.cursor == 0) = true) ∧
    (∃ t, exec .phDataCheckNext (mid 4#3 254 255 0#8 0#8 false false false true false) = .next t ∧
      (t.cursor == 255) = true) ∧
    (∃ t, exec .reset ending7 = .next t ∧ (t.reads == []) = true) ∧
    (∃ t, exec .txBit sending = .next t ∧ (t.cursor == 0) = true) ∧
    (∃ t, exec .phDataCheckNext sending = .next t ∧ (!sending.ifg) = true) :=
  ⟨of_nextIs (p := fun t => t.cursor == 0) (by decide), of_nextIs (p := fun t => t.cursor == 255) (by decide),
    of_nextIs (p := fun t => t.reads == []) (by decide), of_nextIs (p := fun t => t.cursor == 0) (by decide),
    of_nextIs (p := fun _ => !sending.ifg) (by decide)⟩

/-- `ERR` changed, and both CHECK phases with a next state. -/
theorem witness_ErrorIndicatorWriters :
    (∃ t, exec .phDataCheckLast { ending7 with err := true } = .next t ∧ (!t.err) = true) ∧
    (BlockAlone ending7 ∧ ending7.ifg = true ∧ ending7.gie = true ∧ ending7.phase = 4#3 ∧ ∃ t, step ending7 = .next t) ∧
    (let s := mid 2#3 0 2 0xD1#8 0#8 false true false true false
     BlockAlone s ∧ s.ifg = true ∧ s.gie = true ∧ s.phase = 2#3 ∧ ∃ t, step s = .next t) := by
  refine ⟨of_nextIs (p := fun t => !t.err) (by decide),
    ⟨by decide, rfl, rfl, rfl, step_ending7.imp fun _ h => h.1⟩, by decide, rfl, rfl, rfl, ?_⟩
  obtain ⟨t, h, _⟩ := of_nextIs (o := step (mid 2#3 0 2 0xD1#8 0#8 false true false true false))
    (p := fun t => t.err) (by decide)
  exact ⟨t, h⟩

theorem witness_OperationsLeavePayloadPortsParameters : ∃ t, exec .wait sending = .next t ∧ (t.script == [.wait]) = true :=
  of_nextIs (p := fun t => t.script == [.wait]) (by decide)

theorem witness_WireSymbolSources :
    (∃ t, exec .txBit sending = .next t ∧ (wire t == [.start, .tx true]) = true) ∧
    (∃ t, exec .startGen State.reset = .next t ∧ (wire t == [.start]) = true) :=
  ⟨of_nextIs (p := fun t => wire t == [.start, .tx true]) (by decide),
    of_nextIs (p := fun t => wire t == [.start]) (by decide)⟩

/-- A row, and a reserved code. -/
theorem witness_InvocationFollowsTransitionTable :
    (ending7.ifg = true ∧ ending7.gie = true ∧ ending7.ge = false) ∧
    (advance ending7.phase (nack ending7) (last ending7)).isSome = true ∧
    (let s := { ending7 with phase := 0b101#3 }
     s.ifg = true ∧ s.gie = true ∧ s.ge = false ∧ (advance s.phase (nack s) (last s)).isSome = false) := by decide

theorem witness_EndOfTransactionLeavesIdle :
    BlockInv ending7 ∧ (∃ t, step ending7 = .next t ∧ (!t.busy) = true) ∧ ending7.busy = true ∧
    (samplePins ending7).rst = false :=
  ⟨ending7_inv, step_ending7, rfl, rfl⟩

theorem witness_RestAndEndings :
    (BlockInv ending7 ∧ ∃ t, step ending7 = .next t ∧ (!t.busy) = true) ∧
    (BlockInv sending ∧ sending.busy = true ∧ hostQuiet sending = true) :=
  ⟨⟨ending7_inv, step_ending7⟩, sending_inv, rfl, rfl⟩

/-- R197: the last step of 95_test_vectors.md P1, a refusal of its second byte, and a reset in flight told apart. -/
theorem test_endings_told_apart :
    nextIs (step ending7) (fun t => endOfStep ending7 t == some .success) = true ∧
    nextIs (step { ending7 with sr := 0x01#8 }) (fun t =>
      endOfStep { ending7 with sr := 0x01#8 } t == some (.dataNack 2)) = true ∧
    nextIs (step { ending7 with rst := true }) (fun t =>
      endOfStep { ending7 with rst := true } t == some .reset) = true := by decide

/-- Two bytes as in 95_test_vectors.md P1. -/
theorem witness_AcknowledgedTransactionRunsToItsEnd :
    let o := answers (List.replicate 27 false)
    let s := calling 0x74#7 2 o
    BlockInv s ∧ s.busy = false ∧ s.rst = false ∧ s.gie = true ∧ s.pins = [] ∧
    s.script = .writeTransaction 0x74#7 2 :: [] ∧ 2 ≠ 0 ∧ 2 < 2 ^ s.lenw ∧ allAcked (2 + 1) s.oracle :=
  ⟨calling_inv _ _ _, rfl, rfl, rfl, rfl, rfl, by decide, by decide, by
    simp [calling, answers, allAcked, byteAcked, clocked, List.replicate]⟩

/-- 95_test_vectors.md P2. -/
theorem witness_RefusedAddressStopsAtOnce :
    let s := calling 0x20#7 1 (answers (List.replicate 9 true))
    BlockInv s ∧ s.busy = false ∧ s.rst = false ∧ s.gie = true ∧ s.pins = [] ∧
    s.script = .writeTransaction 0x20#7 1 :: [] ∧ 1 ≠ 0 ∧ 1 < 2 ^ s.lenw ∧ clocked 9 s.oracle ∧
    s.oracle[8]? = some ⟨true, true⟩ :=
  ⟨calling_inv _ _ _, rfl, rfl, rfl, rfl, rfl, by decide, by decide, by
    simp [calling, answers, clocked, List.replicate], rfl⟩

end Sys2Proof.Tests
end

section
/-! PROOFS. Start and stop conditions stand where `S` and `P` are recorded (R76). -/

namespace Sys2Proof.Machine

/-! ## Reading on in the record of events -/

/-- Under a clock held low before or after it, a pin change makes no condition (R74). -/
theorem condition_eq_none_of_clock_low {l m : Level} (h : l.sclPull = true ∨ m.sclPull = true) :
    condition l m = none := by
  rcases h with h | h <;> simp [condition, h]

/-- A record read as far as `s` goes on to `t` where the events between lead from the pulls of `s` to those of `t`. -/
theorem FramedAsRecorded.append {s t : State} {b : List Event} (h : FramedAsRecorded s)
    (he : t.events = s.events ++ b) (hb : Framing.run ⟨level s, none⟩ b = some ⟨level t, none⟩) :
    FramedAsRecorded t := by
  rw [FramedAsRecorded, he, Framing.run_append b h, hb]

/-! ## The bit step, and operations that leave the lines alone -/

/-- A bit step changes SDA under a low clock alone, and its symbol is no condition (R121, R122). -/
theorem FramedAsRecorded.clockBit {s : State} {sym : Bool → Bool → Sym} (hsym : ∀ d b, (sym d b).isCondition = false)
    (tSda : Bool) (h : FramedAsRecorded s) : FramedAsRecorded (clockBit sym tSda s) := by
  rw [clockBit_eq]
  refine h.append rfl ?_
  simp [Framing.run, Framing.next, condition_eq_none_of_clock_low, hsym, level, sdaPull, sclPull]

/-- Using an answer of the oracle leaves the lines alone. -/
theorem FramedAsRecorded.afterAnswer {s : State} (h : FramedAsRecorded s) : FramedAsRecorded (afterAnswer s) := by
  rw [afterAnswer_frame]
  exact h

/-- A kick-off leaves the lines and the record alone. -/
theorem FramedAsRecorded.kickOff {a : Addr} {len : Nat} {s t : State} (h : FramedAsRecorded s)
    (ht : kickOff a len s = .next t) : FramedAsRecorded t := by
  rw [kickOff_eq] at ht
  split_ifs at ht
  cases ht
  exact h

/-- Being blocked changes the script alone. -/
theorem FramedAsRecorded.waitFor {s : State} (h : FramedAsRecorded s) : FramedAsRecorded (waitFor s) := by
  unfold Machine.waitFor
  split <;> exact h

/-- The pair `WT; WAIT` leaves the lines and the record alone. -/
theorem FramedAsRecorded.writeTransaction {a : Addr} {len : Nat} {s t : State} (h : FramedAsRecorded s)
    (ht : execWriteTransaction a len s = .next t) : FramedAsRecorded t := by
  unfold execWriteTransaction at ht
  split at ht <;> cases ht
  exact (h.kickOff ‹_›).waitFor

/-- A change of the host's buffer leaves the lines and the record alone. -/
theorem FramedAsRecorded.hostPoke {i : Nat} {b : Byte} {s t : State} (h : FramedAsRecorded s)
    (ht : hostPoke i b s = .next t) : FramedAsRecorded t := by
  unfold Machine.hostPoke at ht
  split_ifs at ht
  cases ht
  exact h

/-- After a reset the record is empty and both lines are released (R210). -/
theorem framedAsRecorded_resetBlock (s : State) : FramedAsRecorded (resetBlock s) := rfl

/-! ## The block's own step -/

/-- A completion pending past the start finds the clock line held low (R37 (viii)). -/
theorem BlockInv.sclq_of_pending {s : State} (hI : BlockInv s) (hi : s.ifg = true) (hp : s.phase ≠ 0b000#3) :
    s.sclq = false := by
  obtain ⟨⟨-, -, -, -, -, -, hclock, -⟩, -, -⟩ := hI
  obtain ⟨-, hlow | ⟨-, hifg, -⟩⟩ := hclock hp
  · exact hlow
  · simp [hi] at hifg

/-- At the start of a transaction, and with none in flight, the lines are released and the direction is input
(R37 (iii), (vii)). -/
theorem BlockInv.pinsIdle_of_start {s : State} (hI : BlockInv s) (hp : s.phase = 0b000#3) : PinsIdle s := by
  obtain ⟨⟨-, -, hidle, -, -, hstart, -, -⟩, ⟨-, -, -, hinput, -, -, -⟩, -⟩ := hI
  cases hb : s.busy
  · exact (hidle hb).2.2.2
  · obtain ⟨-, hsclq, hsdaq⟩ := hstart hp hb
    exact ⟨hinput hp, hsdaq, hsclq⟩

/-- The block's own step keeps the framing: the start falls from released lines, the stop rises after the clock has
been released, and every other pin change has the clock low before or after it. -/
theorem FramedAsRecorded.block {u t : State} (hI : BlockInv u) (hF : FramedAsRecorded u)
    (h : (u.ifg = true ∧ u.gie = true ∧ exec (decodePhase u.phase (nack u) (last u)) u = .next t) ∨
      (u.ifg = false ∧ cnt u ≠ 0#5 ∧ exec (if u.oe then .txBit else .rxBit) u = .next t) ∨ t = u) :
    FramedAsRecorded t := by
  obtain rfl | hstart | hslot | hload | hstop | hwithheld | hbit := block_cases hI h
  · exact hF
  · obtain ⟨-, hp, rfl⟩ := hstart
    obtain ⟨hoe, hsdaq, hsclq⟩ := hI.pinsIdle_of_start hp
    refine hF.append rfl ?_
    simp [Framing.run, Framing.next, condition, level, sdaPull, sclPull, hoe, hsdaq, hsclq]
  · obtain ⟨hi, hp, rfl⟩ := hslot
    have hlow := hI.sclq_of_pending hi (by rcases hp with hp | hp <;> simp [hp])
    refine hF.append rfl ?_
    simp [Framing.run, Framing.next, condition, level, sdaPull, sclPull, hlow]
  · obtain ⟨hi, hp, -, -, rfl⟩ := hload
    have hlow := hI.sclq_of_pending hi (by rcases hp with hp | hp <;> simp [hp])
    refine hF.append rfl ?_
    simp [Framing.run, Framing.next, condition, level, sdaPull, sclPull, hlow]
  · obtain ⟨hi, hp, -, rfl⟩ := hstop
    have hlow := hI.sclq_of_pending hi (by rcases hp with hp | hp <;> simp [hp])
    refine hF.append rfl ?_
    simp [Framing.run, Framing.next, condition, level, sdaPull, sclPull, hlow]
  · obtain ⟨-, -, rfl⟩ := hwithheld
    exact hF.afterAnswer
  · obtain ⟨-, -, rfl⟩ := hbit
    exact hF.afterAnswer.clockBit (fun d b => by cases u.oe <;> rfl) _

/-! ## Every step -/

/-- Sampling the pins keeps the block's invariants. -/
theorem BlockInv.samplePins {s : State} (h : BlockInv s) : BlockInv (samplePins s) := by
  rw [samplePins_frame]
  exact h

/-- Sampling the pins leaves the lines alone. -/
theorem FramedAsRecorded.samplePins {s : State} (h : FramedAsRecorded s) : FramedAsRecorded (samplePins s) := by
  rw [samplePins_frame]
  exact h

/-- Settles O51: of the agents that may move only the block touches the lines, besides reset, which empties the record;
no strobe is presented by itself under the invariants. -/
theorem stepKeepsFraming : Obligations.StepKeepsFraming := by
  unfold Obligations.StepKeepsFraming
  intro s t hI hF h
  have hIu := hI.samplePins
  have hFu := hF.samplePins
  obtain ⟨-, hreset⟩ | ⟨-, k, i, hstrobe, -⟩ | ⟨-, -, rest, hhost⟩ | ⟨-, -, hblock⟩ := step_cases h
  · cases hreset
    exact framedAsRecorded_resetBlock _
  · obtain ⟨-, ⟨hnone, -⟩, -⟩ := hIu
    simp [hnone] at hstrobe
  · replace hFu : FramedAsRecorded { Machine.samplePins s with script := rest } := hFu
    obtain ⟨a, len, -, hwt⟩ | ⟨a, len, -, hwt⟩ | ⟨i, b, -, hpoke⟩ | ⟨-, -, hwait⟩ | ⟨-, -, hread⟩ := hhost
    · exact hFu.kickOff hwt
    · exact hFu.writeTransaction hwt
    · exact hFu.hostPoke hpoke
    · cases hwait
      exact hFu.waitFor
    · cases hread
      exact hFu
  · exact hFu.block hIu hblock

end Sys2Proof.Machine
end

section
/-! PROOFS. What a step runs (R5, R6), and what no operation writes (R7, R36, R62). -/

namespace Sys2Proof.Machine

/-! ## The state of the choice -/

/-- The state the choice runs in. -/
def Selected.state : Selected → State
  | .rest s => s
  | .word _ s => s
  | .host _ s => s
  | .poke _ _ s => s

/-- The block's choice runs in the state as it is. -/
theorem selectBlock_state (s : State) : (selectBlock s).state = s := by
  obtain ⟨-, -, h⟩ | ⟨-, -, h⟩ | ⟨-, h⟩ := selectBlock_cases s <;> rw [h] <;> rfl

/-- A host statement is taken off the script, and nothing else changes. -/
theorem selectHost_state (s : State) : (selectHost s).state = { s with script := (selectHost s).state.script } := by
  unfold selectHost
  split
  · rw [selectBlock_state]
  · rfl
  · rfl
  · rfl
  · split
    · rw [selectBlock_state]
    · rfl
  · split
    · rw [selectBlock_state]
    · rfl

/-- The choice takes away a host statement or a strobe at most. -/
theorem select_state (s : State) :
    (select s).state = { s with script := (select s).state.script, strobe := (select s).state.strobe } := by
  unfold select
  split
  · rfl
  split
  · rfl
  · rw [selectHost_state]

/-- Where a host step is chosen, the choice was the host's. -/
theorem selectHost_of_select_host {s t : State} {i : Instr} (h : select s = .host i t) : selectHost s = .host i t := by
  unfold select at h
  split at h
  · cases h
  split at h
  · cases h
  · exact h

/-- A presented word runs in a state without the strobe or the host statement it came from. -/
theorem state_of_select_word {s t : State} {w : OpWord} (h : select s = .word w t) :
    t = { s with script := t.script, strobe := t.strobe } := by
  have hs := select_state s
  rwa [h] at hs

/-- A host step runs in a state without its statement. -/
theorem state_of_select_host {s t : State} {i : Instr} (h : select s = .host i t) :
    t = { s with script := t.script } := by
  have hs := selectHost_state s
  rwa [selectHost_of_select_host h] at hs

/-- Sampling takes the head off the pin schedule. -/
theorem samplePins_pins (s : State) : (samplePins s).pins = s.pins.tail := by
  unfold samplePins
  split <;> simp [*]

/-- Settles O35, by the state that each choice carries and the frame of sampling. -/
theorem stepRunsChosenOperation : Obligations.StepRunsChosenOperation := by
  unfold Obligations.StepRunsChosenOperation
  refine ⟨fun s t w i hsel hdec => ⟨?_, state_of_select_word hsel⟩,
    fun s t i hsel => ⟨?_, state_of_select_host hsel⟩, fun s => ?_⟩
  · simp [step, hsel, hdec]
  · simp [step, hsel]
  · rw [← samplePins_pins]
    exact samplePins_frame s

/-- What a step that answers a next state ran: an operation, a change of the host's buffer, or nothing, in the state
with the pins sampled and a host statement or a strobe taken away at most. -/
theorem step_ran {s t : State} (h : step s = .next t) :
    ∃ u, u = { samplePins s with script := u.script, strobe := u.strobe } ∧
      ((∃ i, exec i u = .next t) ∨ (∃ i b, hostPoke i b u = .next t) ∨ t = u) := by
  refine ⟨_, select_state (samplePins s), ?_⟩
  unfold step at h
  cases hsel : select (samplePins s) <;> simp only [hsel] at h <;> simp only [Selected.state]
  case rest u => exact .inr (.inr (by simpa using h.symm))
  case host i u => exact .inl ⟨i, h⟩
  case poke i b u => exact .inr (.inl ⟨i, b, h⟩)
  case word w u =>
    cases hdec : decode w <;> simp only [hdec] at h
    case ok i => exact .inl ⟨i, h⟩
    case error => cases h

/-! ## What the operations leave alone -/

/-- The part of a state that the block's own operations leave alone: the flag bits, the parameters, and what is outside
the block except the oracle and the records. -/
structure Untouched where
  flags : BitVec 3
  flagsReset : BitVec 3
  lenw : Nat
  payload : List Host.Cell
  rst : Bool
  gie : Bool
  pins : List Pins
  script : List HostOp
  strobe : Option Strobe

/-- The part of this state. -/
def untouched (s : State) : Untouched where
  flags := flagBits s
  flagsReset := s.flagsReset
  lenw := s.lenw
  payload := s.payload
  rst := s.rst
  gie := s.gie
  pins := s.pins
  script := s.script
  strobe := s.strobe

/-- Two states agree in that part exactly where they agree in each of its fields. -/
theorem untouched_eq_iff {s t : State} : untouched t = untouched s ↔
    flagBits t = flagBits s ∧ t.flagsReset = s.flagsReset ∧ t.lenw = s.lenw ∧ t.payload = s.payload ∧
      t.rst = s.rst ∧ t.gie = s.gie ∧ t.pins = s.pins ∧ t.script = s.script ∧ t.strobe = s.strobe := by
  simp [untouched]

@[simp] theorem untouched_setters (s : State) :
    (∀ b, untouched (setOe b s) = untouched s) ∧ (∀ b, untouched (setSdaq b s) = untouched s) ∧
    (∀ b, untouched (setSclq b s) = untouched s) ∧ (∀ y, untouched (emit y s) = untouched s) ∧
    (∀ p, untouched (setPhase p s) = untouched s) ∧ (∀ e, untouched (takeError e s) = untouched s) ∧
    untouched (clearErr s) = untouched s ∧ untouched (advanceCursor s) = untouched s :=
  ⟨fun _ => rfl, fun _ => rfl, fun _ => rfl, fun _ => rfl, fun _ => rfl, fun _ => rfl, rfl, rfl⟩

/-- The primitives that do not look at the latch or the count. -/
@[simp] theorem untouched_primitives (s : State) :
    untouched (dirOut s) = untouched s ∧ untouched (dirIn s) = untouched s ∧
    untouched (raiseIfg s) = untouched s ∧ untouched (clearIfg s) = untouched s ∧
    untouched (latchOpen s) = untouched s ∧ untouched (latchClose s) = untouched s ∧
    untouched (sclRelease s) = untouched s :=
  ⟨rfl, rfl, rfl, rfl, rfl, rfl, rfl⟩

@[simp] theorem untouched_loadSr (v : Byte) (s : State) : untouched (loadSr v s) = untouched s := by
  unfold loadSr
  split <;> rfl

/-- `LOAD_CNT` keeps the flag field (R103). -/
@[simp] theorem untouched_loadCnt (n : Byte) (s : State) : untouched (loadCnt n s) = untouched s := by
  simp [untouched_eq_iff, flagBits, flags_withCount]

@[simp] theorem untouched_startGen (s : State) : untouched (startGen s) = untouched s := by simp [startGen]

@[simp] theorem untouched_stopGen (s : State) : untouched (stopGen s) = untouched s := by simp [stopGen]

@[simp] theorem untouched_stopActions (s : State) : untouched (stopActions s) = untouched s :=
  untouched_stopGen s

@[simp] theorem untouched_afterAnswer (s : State) : untouched (afterAnswer s) = untouched s := by
  rw [afterAnswer_frame]
  rfl

/-- A bit step keeps the flag field (R126). -/
@[simp] theorem untouched_clockBit (sym : Bool → Bool → Sym) (tSda : Bool) (s : State) :
    untouched (clockBit sym tSda s) = untouched s := by
  simp [clockBit_eq, untouched_eq_iff, flagBits, flags_decCount]

/-- Reset puts the flag bits at `FLAGS_RESET` (R210). -/
theorem untouched_resetBlock (s : State) :
    untouched (resetBlock s) = { untouched s with flags := s.flagsReset } := by
  simp [untouched, resetBlock, flagBits, flags_reset]

/-- A blocked host has its `WAIT` back at the head of the script (R142). -/
theorem untouched_waitFor (s : State) :
    untouched (waitFor s) = untouched s ∨ untouched (waitFor s) = { untouched s with script := .wait :: s.script } := by
  unfold waitFor
  split
  · exact .inr rfl
  · exact .inl rfl

/-! ## Every operation -/

/-- The outcome leaves that part as it is in `s`, where it is a next state. -/
def Leaves (s : State) (r : Result) : Prop := ∀ t, r = .next t → untouched t = untouched s

theorem leaves_next {s t : State} (h : untouched t = untouched s) : Leaves s (.next t) := by
  rintro _ ⟨⟩
  exact h

theorem leaves_fault (s : State) (r : Fault) : Leaves s (.fault r) := by
  rintro t ⟨⟩

theorem leaves_invoke {s : State} {op : State → Result} (h : Leaves s (op s)) : Leaves s (invoke op s) := by
  intro t ht
  obtain ⟨-, -, u, hu, rfl⟩ | ⟨-, rfl⟩ := invoke_next ht
  · simpa using h u hu
  · rfl

theorem leaves_sendPayloadByte (s : State) : Leaves s (sendPayloadByte s) := by
  unfold sendPayloadByte
  dsimp only
  split
  · exact leaves_next (by simp)
  · exact leaves_fault _ _

theorem leaves_seqStep (out : Bool) (sym : Bool → Bool → Sym) (s : State) : Leaves s (seqStep out sym s) := by
  obtain ⟨-, -, -, h⟩ | ⟨-, -, -, h⟩ | ⟨-, h⟩ := seqStep_cases out sym s <;> rw [h] <;> exact leaves_next (by simp)

theorem leaves_kickOff (a : Addr) (len : Nat) (s : State) : Leaves s (kickOff a len s) := by
  intro t ht
  rw [kickOff_eq] at ht
  split_ifs at ht
  cases ht
  rfl

/-- The pair `WT; WAIT` changes of that part the script alone, as `WAIT` does. -/
theorem untouched_writeTransaction {a : Addr} {len : Nat} {s t : State} (h : execWriteTransaction a len s = .next t) :
    untouched t = untouched s ∨ untouched t = { untouched s with script := .wait :: s.script } := by
  unfold execWriteTransaction at h
  split at h <;> cases h
  rename_i u hu
  have hk := leaves_kickOff a len s u hu
  have hs : u.script = s.script := congrArg Untouched.script hk
  simpa only [hk, hs] using untouched_waitFor u

/-- Every operation leaves that part alone, but reset the flag bits and the two host steps that wait the script. -/
theorem untouched_exec {i : Instr} {s t : State} (h : exec i s = .next t) :
    untouched t = untouched s ∨ untouched t = { untouched s with flags := s.flagsReset } ∨
      untouched t = { untouched s with script := .wait :: s.script } := by
  suffices hl : Leaves s (exec i s) ∨ i = .reset ∨ i = .wait ∨ ∃ a len, i = .writeTransaction a len by
    obtain hl | rfl | rfl | ⟨a, len, rfl⟩ := hl
    · exact .inl (hl t h)
    · cases h
      exact .inr (.inl (untouched_resetBlock s))
    · cases h
      exact (untouched_waitFor s).imp_right .inr
    · exact (untouched_writeTransaction h).imp_right .inr
  cases i
  case reset | wait | writeTransaction => simp
  all_goals left
  case wt a len => exact leaves_kickOff a len s
  case txBit | rxBit => exact leaves_seqStep _ _ s
  case reserved101 | reserved11x => exact leaves_fault s _
  case phAddrCheckAck | phDataCheckNext => exact leaves_invoke (leaves_sendPayloadByte s)
  case phStart | phAddrAck | phAddrCheckNack | phDataAck | phDataCheckLast | phDataCheckNack =>
    dsimp only [exec, execPhStart, execPhAddrAck, execPhAddrCheckNack, execPhDataAck, execPhDataCheckLast,
      execPhDataCheckNack]
    exact leaves_invoke (leaves_next (by simp [openAckSlot]))
  case readRx | readErr => exact leaves_next rfl
  case dirOut | dirIn | loadSr | loadCnt | raiseIfg | clearIfg | latchOpen | latchClose | sclRelease =>
    exact leaves_next (by simp)
  case startGen | stopGen | stopActions => exact leaves_next (by simp)

/-- Settles O54, by what every operation leaves alone. -/
theorem operationsLeavePayloadPortsParameters : Obligations.OperationsLeavePayloadPortsParameters := by
  unfold Obligations.OperationsLeavePayloadPortsParameters
  intro i s t h
  obtain hu | hu | hu := untouched_exec h <;> simp only [untouched, Untouched.mk.injEq] at hu <;> simp [hu]

/-! ## The flag bits and the parameters along a step -/

/-- Every operation keeps the flag bits at `FLAGS_RESET` and leaves the parameters alone. -/
theorem flagsKept_exec {i : Instr} {s t : State} (h : exec i s = .next t) (hs : FlagsKept s) :
    FlagsKept t ∧ t.flagsReset = s.flagsReset ∧ t.lenw = s.lenw := by
  obtain hu | hu | hu := untouched_exec h <;> simp only [untouched, Untouched.mk.injEq] at hu <;>
    simp [FlagsKept, hu, show flagBits s = s.flagsReset from hs]

/-- So does a change of the host's buffer, which writes the payload alone. -/
theorem flagsKept_hostPoke {i : Nat} {b : Byte} {s t : State} (h : hostPoke i b s = .next t) (hs : FlagsKept s) :
    FlagsKept t ∧ t.flagsReset = s.flagsReset ∧ t.lenw = s.lenw := by
  unfold hostPoke at h
  split_ifs at h
  cases h
  exact ⟨hs, rfl, rfl⟩

/-- Settles O49: a step runs an operation, a change of the buffer, or nothing. -/
theorem stepKeepsFlagBits : Obligations.StepKeepsFlagBits := by
  unfold Obligations.StepKeepsFlagBits
  intro s t hs h
  obtain ⟨u, hu, hran⟩ := step_ran h
  rw [samplePins_frame] at hu
  have hparams : FlagsKept u ∧ u.flagsReset = s.flagsReset ∧ u.lenw = s.lenw := by
    rw [hu]
    exact ⟨hs, rfl, rfl⟩
  obtain ⟨hku, hfu, hlu⟩ := hparams
  rw [← hfu, ← hlu]
  obtain ⟨i, he⟩ | ⟨i, b, hp⟩ | rfl := hran
  · exact flagsKept_exec he hku
  · exact flagsKept_hostPoke hp hku
  · exact ⟨hku, rfl, rfl⟩

end Sys2Proof.Machine
end

section
/-! PROOFS. The state after reset (R40, R210), the derived signals (R35, R74, R112), and the invariants of R37 that
every step keeps. -/

namespace Sys2Proof.Machine

/-! ## The derived signals -/

/-- SDA is pulled exactly where the block drives it and the latch is low (R112). -/
theorem sdaPull_iff (s : State) : sdaPull s = true ↔ s.oe = true ∧ s.sdaq = false := by
  simp [sdaPull]

/-- SCL is pulled exactly where its latch is low (R112). -/
theorem sclPull_iff (s : State) : sclPull s = true ↔ s.sclq = false := by
  simp [sclPull]

/-- A data line that the block does not pull has the target's level (R74). -/
theorem sdaLine_released {s : State} (h : s.oe = false ∨ s.sdaq = true) (b : Bool) : sdaLine s b = b := by
  rcases h with h | h <;> simp [sdaLine, sdaPull, h]

/-- A data line that the block pulls is low, whatever the target does (R74). -/
theorem sdaLine_pulled {s : State} (h : sdaPull s = true) (b : Bool) : sdaLine s b = false := by
  simp [sdaLine, h]

/-- A clock line that the block releases has the target's level (R74). -/
theorem sclLine_released {s : State} (h : s.sclq = true) (b : Bool) : sclLine s b = b := by
  simp [sclLine, sclPull, h]

/-- A clock line that the block pulls is low, whatever the target does (R74). -/
theorem sclLine_pulled {s : State} (h : sclPull s = true) (b : Bool) : sclLine s b = false := by
  simp [sclLine, h]

/-- Settles O45: `NACK` and the dispatch word by definition, the lines by who pulls them. -/
theorem derivedSignals : Obligations.DerivedSignals := by
  unfold Obligations.DerivedSignals
  intro s
  exact ⟨rfl, beq_iff_eq, rfl, sdaPull_iff s, sclPull_iff s, fun ho => sdaLine_released (.inl ho),
    fun _ hq => sdaLine_released (.inr hq), fun ho hq => sdaLine_pulled ((sdaPull_iff s).2 ⟨ho, hq⟩),
    sclLine_released, fun hq => sclLine_pulled ((sclPull_iff s).2 hq)⟩

/-! ## The invariants by where a transaction stands -/

/-- What the invariants say wherever a transaction stands: the latch closed, the flag bits as reset left them, no strobe
presented by itself, and the two counts in their widths. -/
structure Standing (s : State) : Prop where
  strobe : s.strobe = none
  ge : s.ge = false
  flags : FlagsKept s
  width : InWidth s

/-- No transaction in flight (R37 (iii)). -/
structure Free (s : State) : Prop where
  busy : s.busy = false
  phase : s.phase = 0b000#3
  ifg : s.ifg = false
  cnt : cnt s = 0#5
  pins : PinsIdle s

/-- A transaction kicked off, its start condition to come (R37 (vii)). -/
structure AtStart (s : State) : Prop where
  busy : s.busy = true
  phase : s.phase = 0b000#3
  ifg : s.ifg = true
  cnt : cnt s = 0#5
  pins : PinsIdle s
  cursor : s.cursor = 0
  len : 1 ≤ s.len

/-- A transaction past its start, in a bit group or with the completion of one pending: a byte going out, or its
acknowledge slot of one bit. -/
structure InGroup (s : State) : Prop where
  busy : s.busy = true
  range : 1 ≤ s.len ∧ s.cursor ≤ s.len
  bound : cnt s ≤ 8#5
  pending : s.ifg = true ↔ cnt s = 0#5
  clock : s.sclq = false ∨ (s.phase = 0b001#3 ∧ s.ifg = false ∧ cnt s = 8#5)
  group : ((s.phase = 0b001#3 ∨ s.phase = 0b011#3) ∧ s.oe = true) ∨
    ((s.phase = 0b010#3 ∨ s.phase = 0b100#3) ∧ s.oe = false ∧ cnt s ≤ 1#5)
  unsent : s.cursor = 0 ↔ s.phase = 0b001#3 ∨ s.phase = 0b010#3

/-- A bit group is past the start. -/
theorem InGroup.phase_ne_start {s : State} (h : InGroup s) : s.phase ≠ 0b000#3 := by
  obtain ⟨hp | hp, -⟩ | ⟨hp | hp, -⟩ := h.group <;> simp [hp]

/-- With none in flight the invariants of a transaction hold of themselves. -/
theorem Free.blockInv {s : State} (h : Free s) (hs : Standing s) : BlockInv s := by
  obtain ⟨hb, hp, hi, hc, hoe, hsdaq, hsclq⟩ := h
  obtain ⟨hstrobe, hge, hflags, hcursorWidth, hlenWidth⟩ := hs
  simp [BlockInv, StepBoundary, Sequenced, PhaseLegal, CountBounded, PinsIdle, FlagsKept, InWidth, *]

theorem AtStart.blockInv {s : State} (h : AtStart s) (hs : Standing s) : BlockInv s := by
  obtain ⟨hb, hp, hi, hc, ⟨hoe, hsdaq, hsclq⟩, hcursor, hlen⟩ := h
  obtain ⟨hstrobe, hge, hflags, hcursorWidth, hlenWidth⟩ := hs
  simp [BlockInv, StepBoundary, Sequenced, PhaseLegal, CountBounded, FlagsKept, InWidth, *]

theorem InGroup.blockInv {s : State} (h : InGroup s) (hs : Standing s) : BlockInv s := by
  have hne := h.phase_ne_start
  obtain ⟨hb, hrange, hbound, hpend, hclock, hgroup, hunsent⟩ := h
  refine ⟨⟨?legal, hs.ge, by simp [hb], ⟨hbound, hpend.1⟩, fun _ => hrange, fun hp => absurd hp hne,
      fun _ => ⟨hb, hclock⟩, hs.flags⟩,
    ⟨hs.strobe, fun _ hp => hunsent.2 (hp.resolve_left hne), ?sent, fun hp => absurd hp hne, ?byte, ?slot, ?moving⟩,
    hs.width⟩
  case legal => obtain ⟨hp | hp, -⟩ | ⟨hp | hp, -⟩ := hgroup <;> simp [PhaseLegal, hp]
  case sent =>
    intro hp hz
    rcases hunsent.1 hz with h | h <;> simp [h] at hp
  case byte =>
    intro hp
    obtain ⟨-, hoe⟩ | ⟨hslot, -⟩ := hgroup
    · exact hoe
    · rcases hslot with h | h <;> simp [h] at hp
  case slot =>
    intro hp
    obtain ⟨hbyte, -⟩ | ⟨-, hslot⟩ := hgroup
    · rcases hbyte with h | h <;> simp [h] at hp
    · exact hslot
  case moving =>
    intro _ hi hc
    simp [hi, hc] at hpend

/-- Past the start of a transaction in flight the invariants say which bit group is in progress. -/
theorem BlockInv.inGroup_of_busy {s : State} (hI : BlockInv s) (hb : s.busy = true) (hp : s.phase ≠ 0b000#3) :
    InGroup s := by
  obtain ⟨⟨hlegal, -, -, hcount, hrange, -, hclock, -⟩, ⟨-, hunsent, hsent, -, hbyte, hslot, hmoving⟩, -⟩ := hI
  refine ⟨hb, hrange hb, hcount.1, ⟨hcount.2, fun hc => ?_⟩, (hclock hp).2, ?_, fun hz => ?_,
    fun h => hunsent hb (.inr h)⟩
  · by_contra hi
    exact hmoving hb (by simpa using hi) hc
  · rcases hlegal with h | h | h | h | h
    · exact absurd h hp
    · exact .inl ⟨.inl h, hbyte (.inl h)⟩
    · exact .inr ⟨.inl h, hslot (.inl h)⟩
    · exact .inl ⟨.inr h, hbyte (.inr h)⟩
    · exact .inr ⟨.inr h, hslot (.inr h)⟩
  · rcases hlegal with h | h | h | h | h
    · exact absurd h hp
    · exact .inl h
    · exact .inr h
    · exact absurd hz (hsent (.inl h))
    · exact absurd hz (hsent (.inr h))

/-- The block's invariants, by where a transaction stands. -/
theorem blockInv_iff {s : State} : BlockInv s ↔ Standing s ∧ (Free s ∨ AtStart s ∨ InGroup s) := by
  constructor
  · intro hI
    have hgroup := hI.inGroup_of_busy
    obtain ⟨⟨-, hge, hidle, hcount, hrange, hstart, -, hflags⟩, ⟨hstrobe, hunsent, -, hinput, -, -, -⟩, hwidth⟩ := hI
    refine ⟨⟨hstrobe, hge, hflags, hwidth⟩, ?_⟩
    cases hb : s.busy
    · obtain ⟨hp, hi, hc, hpins⟩ := hidle hb
      exact .inl ⟨hb, hp, hi, hc, hpins⟩
    by_cases hp : s.phase = 0b000#3
    · obtain ⟨hi, hsclq, hsdaq⟩ := hstart hp hb
      exact .inr (.inl ⟨hb, hp, hi, hcount.2 hi, ⟨hinput hp, hsdaq, hsclq⟩, hunsent hb (.inl hp), (hrange hb).1⟩)
    · exact .inr (.inr (hgroup hb hp))
  · rintro ⟨hs, hfree | hstart | hgroup⟩
    · exact hfree.blockInv hs
    · exact hstart.blockInv hs
    · exact hgroup.blockInv hs

/-! ## Reset -/

/-- Reset in any state in which no strobe is presented by itself leads to a sound state. -/
theorem blockInv_resetBlock {s : State} (h : s.strobe = none) : BlockInv (resetBlock s) := by
  have hcnt : cnt (resetBlock s) = 0#5 := count_reset s.flagsReset
  have hflags : FlagsKept (resetBlock s) := flags_reset s.flagsReset
  exact blockInv_iff.2 ⟨⟨h, rfl, hflags, Nat.two_pow_pos _, Nat.two_pow_pos _⟩,
    .inl ⟨rfl, rfl, rfl, hcnt, rfl, rfl, rfl⟩⟩

/-- Settles O1, by evaluation at the one state it speaks of. -/
theorem resetStateHasStatedValues : Obligations.ResetStateHasStatedValues := by
  unfold Obligations.ResetStateHasStatedValues
  exact ⟨rfl, rfl, rfl, count_reset _, flags_reset _, rfl, rfl, rfl, rfl, rfl, rfl, rfl⟩

/-- Settles O4: the state after reset is what reset makes of itself. -/
theorem resetStateIsSound : Obligations.ResetStateIsSound := by
  unfold Obligations.ResetStateIsSound
  exact ⟨blockInv_resetBlock (s := State.reset) rfl, rfl, framedAsRecorded_resetBlock State.reset, rfl, rfl⟩

/-! ## A step of the host -/

/-- A kick-off puts the transaction at its start, where none was in flight (R140). -/
theorem BlockInv.kickOff {a : Addr} {len : Nat} {s t : State} (hI : BlockInv s) (h : kickOff a len s = .next t) :
    BlockInv t := by
  rw [kickOff_eq] at h
  split_ifs at h with hw hb hz
  cases h
  obtain ⟨hs, hfree | hstart | hgroup⟩ := blockInv_iff.1 hI
  · exact blockInv_iff.2 ⟨⟨hs.strobe, hs.ge, hs.flags, Nat.two_pow_pos _, Nat.lt_of_not_le hw⟩,
      .inr (.inl ⟨rfl, rfl, rfl, hfree.cnt, hfree.pins, rfl, Nat.pos_of_ne_zero hz⟩)⟩
  · exact absurd hstart.busy hb
  · exact absurd hgroup.busy hb

/-- Being blocked changes the script alone. -/
theorem BlockInv.waitFor {s : State} (hI : BlockInv s) : BlockInv (waitFor s) := by
  unfold Machine.waitFor
  split <;> exact hI

/-- The pair `WT; WAIT` keeps the invariants, as the kick-off does. -/
theorem BlockInv.writeTransaction {a : Addr} {len : Nat} {s t : State} (hI : BlockInv s)
    (h : execWriteTransaction a len s = .next t) : BlockInv t := by
  unfold execWriteTransaction at h
  split at h <;> cases h
  exact (hI.kickOff ‹_›).waitFor

/-- A change of the host's buffer is outside the block. -/
theorem BlockInv.hostPoke {i : Nat} {b : Byte} {s t : State} (hI : BlockInv s) (h : hostPoke i b s = .next t) :
    BlockInv t := by
  unfold Machine.hostPoke at h
  split_ifs at h
  cases h
  exact hI

/-! ## A step of the block -/

/-- A completion pending at the start phase is that of a kick-off. -/
theorem BlockInv.atStart {s : State} (hI : BlockInv s) (hi : s.ifg = true) (hp : s.phase = 0b000#3) : AtStart s := by
  obtain ⟨-, hfree | hstart | hgroup⟩ := blockInv_iff.1 hI
  · simp [hfree.ifg] at hi
  · exact hstart
  · exact absurd hp hgroup.phase_ne_start

/-- Past the start phase a bit group is in progress. -/
theorem BlockInv.inGroup {s : State} (hI : BlockInv s) (hp : s.phase ≠ 0b000#3) : InGroup s := by
  obtain ⟨-, hfree | hstart | hgroup⟩ := blockInv_iff.1 hI
  · exact absurd hfree.phase hp
  · exact absurd hstart.phase hp
  · exact hgroup

/-- A bit still to come is one of a bit group. -/
theorem BlockInv.inGroup_of_count {s : State} (hI : BlockInv s) (hc : cnt s ≠ 0#5) : InGroup s := by
  obtain ⟨-, hfree | hstart | hgroup⟩ := blockInv_iff.1 hI
  · exact absurd hfree.cnt hc
  · exact absurd hstart.cnt hc
  · exact hgroup

/-- Using an answer of the oracle is outside the block. -/
theorem BlockInv.afterAnswer {s : State} (hI : BlockInv s) : BlockInv (afterAnswer s) := by
  rw [afterAnswer_frame]
  exact hI

/-- A bit step takes a bit group one bit further, and completes it with the last (R121, R122, R123). -/
theorem InGroup.clockBit {s : State} (h : InGroup s) (hc : cnt s ≠ 0#5) (sym : Bool → Bool → Sym) (tSda : Bool) :
    InGroup (clockBit sym tSda s) := by
  have hcnt : cnt (Machine.clockBit sym tSda s) = cnt s - 1#5 := by
    rw [clockBit_eq]
    exact count_decCount _
  have hi : s.ifg = false := by simpa [hc] using h.pending
  have hdown : ∀ n, n ≤ 8#5 → cnt s ≤ n → cnt s - 1#5 ≤ n := by
    intro n _ hn
    bv_omega
  rw [clockBit_eq] at hcnt ⊢
  refine ⟨h.busy, h.range, ?_, ?_, .inl rfl, ?_, h.unsent⟩
  · rw [hcnt]
    exact hdown _ (by decide) h.bound
  · rw [hcnt]
    simp [hi]
  · rw [hcnt]
    exact h.group.imp_right fun ⟨hp, hoe, hslot⟩ => ⟨hp, hoe, hdown _ (by decide) hslot⟩

/-- A bit step keeps the invariants. -/
theorem BlockInv.clockBit {s : State} (hI : BlockInv s) (hc : cnt s ≠ 0#5) (sym : Bool → Bool → Sym) (tSda : Bool) :
    BlockInv (clockBit sym tSda s) := by
  refine blockInv_iff.2 ⟨?_, .inr (.inr ((hI.inGroup_of_count hc).clockBit hc sym tSda))⟩
  obtain ⟨⟨hstrobe, hge, hflags, hwidth⟩, -⟩ := blockInv_iff.1 hI
  rw [clockBit_eq]
  exact ⟨hstrobe, hge, (flags_decCount _).trans hflags, hwidth⟩

/-- The block's own step keeps the invariants. -/
theorem BlockInv.block {u t : State} (hI : BlockInv u)
    (h : (u.ifg = true ∧ u.gie = true ∧ exec (decodePhase u.phase (nack u) (last u)) u = .next t) ∨
      (u.ifg = false ∧ cnt u ≠ 0#5 ∧ exec (if u.oe then .txBit else .rxBit) u = .next t) ∨ t = u) :
    BlockInv t := by
  obtain ⟨hs, -⟩ := blockInv_iff.1 hI
  have hflags (n : Byte) : (withCount u.cntreg n).extractLsb' 5 3 = u.flagsReset :=
    (flags_withCount _ _).trans hs.flags
  have hcount (n : Byte) : (withCount u.cntreg n).extractLsb' 0 5 = n.extractLsb' 0 5 := count_withCount _ _
  obtain rfl | hstart | hslot | hload | hstop | hwithheld | hbit := block_cases hI h
  · exact hI
  · obtain ⟨hi, hp, rfl⟩ := hstart
    have hu := hI.atStart hi hp
    refine blockInv_iff.2 ⟨⟨hs.strobe, rfl, hflags _, hs.width⟩, .inr (.inr ?_)⟩
    constructor <;> simp [cnt, hcount, hu.busy, hu.cursor, hu.len]
  · obtain ⟨hi, hp, rfl⟩ := hslot
    have hne : u.phase ≠ 0b000#3 := fun h => by simp [h] at hp
    have hu := hI.inGroup hne
    have hlow := hI.sclq_of_pending hi hne
    have hunsent := hu.unsent
    refine blockInv_iff.2 ⟨⟨hs.strobe, hs.ge, hflags _, hs.width⟩, .inr (.inr ?_)⟩
    rcases hp with hp | hp <;> simp [hp] at hunsent <;> constructor <;>
      simp [cnt, hcount, hu.busy, hu.range, hp, hlow, hunsent]
  · obtain ⟨hi, hp, -, hcursor, rfl⟩ := hload
    have hne : u.phase ≠ 0b000#3 := fun h => by simp [h] at hp
    have hlow := hI.sclq_of_pending hi hne
    have hup : (u.cursor + 1) % 2 ^ u.lenw = u.cursor + 1 := Nat.mod_eq_of_lt (by have := hs.width.2; omega)
    refine blockInv_iff.2 ⟨⟨hs.strobe, hs.ge, hflags _, Nat.mod_lt _ (Nat.two_pow_pos _), hs.width.2⟩, .inr (.inr ?_)⟩
    constructor <;> simp [cnt, hcount, (hI.inGroup hne).busy, hlow, hup]
    omega
  · obtain ⟨hi, hp, -, rfl⟩ := hstop
    have hne : u.phase ≠ 0b000#3 := fun h => by simp [h] at hp
    exact blockInv_iff.2 ⟨⟨hs.strobe, hs.ge, hs.flags, hs.width⟩,
      .inl ⟨rfl, rfl, rfl, (hI.inGroup hne).pending.1 hi, rfl, rfl, rfl⟩⟩
  · obtain ⟨-, -, rfl⟩ := hwithheld
    exact hI.afterAnswer
  · obtain ⟨-, hc, rfl⟩ := hbit
    have hca : cnt (Machine.afterAnswer u) ≠ 0#5 := by
      rw [afterAnswer_frame]
      exact hc
    exact hI.afterAnswer.clockBit hca _ _

/-- Settles O46: reset and a kick-off lead to a sound state, the rest of the host's steps is outside the block, and the
block's own step goes from one place of a transaction to the next. -/
theorem stepKeepsBoundaryInvariants : Obligations.StepKeepsBoundaryInvariants := by
  unfold Obligations.StepKeepsBoundaryInvariants
  intro s t hI h
  have hIu := hI.samplePins
  have hnone : (samplePins s).strobe = none := (blockInv_iff.1 hIu).1.strobe
  obtain ⟨-, hreset⟩ | ⟨-, k, i, hstrobe, -⟩ | ⟨-, -, rest, hhost⟩ | ⟨-, -, hblock⟩ := step_cases h
  · cases hreset
    exact blockInv_resetBlock hnone
  · simp [hnone] at hstrobe
  · replace hIu : BlockInv { samplePins s with script := rest } := hIu
    obtain ⟨a, len, -, hwt⟩ | ⟨a, len, -, hwt⟩ | ⟨i, b, -, hpoke⟩ | ⟨-, -, hwait⟩ | ⟨-, -, hread⟩ := hhost
    · exact hIu.kickOff hwt
    · exact hIu.writeTransaction hwt
    · exact hIu.hostPoke hpoke
    · cases hwait
      exact hIu.waitFor
    · cases hread
      exact hIu
  · exact hIu.block hblock

end Sys2Proof.Machine
end

section
/-! PROOFS. The address byte, the cursor with the record of reads, and the error indicator: what every operation leaves
in them (R22, R23, R32, R165). -/

namespace Sys2Proof.Machine

/-! ## How far a transaction has come -/

/-- The part of a state that says which transaction it is, how far it has come and how the last slot was answered. -/
structure Progress where
  addrByte : Byte
  cursor : Nat
  reads : List Nat
  err : Bool

/-- The part of this state. -/
def progress (s : State) : Progress where
  addrByte := s.addrByte
  cursor := s.cursor
  reads := s.reads
  err := s.err

/-- Two states agree in that part exactly where they agree in each of its fields. -/
theorem progress_eq_iff {s : State} {p : Progress} : progress s = p ↔
    s.addrByte = p.addrByte ∧ s.cursor = p.cursor ∧ s.reads = p.reads ∧ s.err = p.err := by
  cases p
  simp [progress]

/-- The index at the cursor presented, then the cursor one up (R61, R168). -/
def Progress.advance (lenw : Nat) (p : Progress) : Progress :=
  { p with cursor := (p.cursor + 1) % 2 ^ lenw, reads := p.reads ++ [p.cursor] }

/-- What an operation that answers a next state leaves in that part. -/
def progressAfter (i : Instr) (s : State) : Progress :=
  match i with
  | .wt a _ | .writeTransaction a _ => { progress s with addrByte := frameAddress a, cursor := 0 }
  | .phAddrCheckAck | .phDataCheckNext =>
    if ctrlEnabled s then { (progress s).advance s.lenw with err := false } else progress s
  | .phAddrCheckNack | .phDataCheckNack => if ctrlEnabled s then { progress s with err := true } else progress s
  | .phDataCheckLast => if ctrlEnabled s then { progress s with err := false } else progress s
  | .reset => progress State.reset
  | _ => progress s

/-! ## The shared operations -/

@[simp] theorem progress_setters (s : State) :
    (∀ b, progress (setOe b s) = progress s) ∧ (∀ b, progress (setSdaq b s) = progress s) ∧
    (∀ b, progress (setSclq b s) = progress s) ∧ (∀ y, progress (emit y s) = progress s) ∧
    (∀ p, progress (setPhase p s) = progress s) ∧ (∀ n, progress (loadCnt n s) = progress s) :=
  ⟨fun _ => rfl, fun _ => rfl, fun _ => rfl, fun _ => rfl, fun _ => rfl, fun _ => rfl⟩

@[simp] theorem progress_primitives (s : State) :
    progress (dirOut s) = progress s ∧ progress (dirIn s) = progress s ∧ progress (raiseIfg s) = progress s ∧
    progress (clearIfg s) = progress s ∧ progress (latchOpen s) = progress s ∧
    progress (latchClose s) = progress s ∧ progress (sclRelease s) = progress s :=
  ⟨rfl, rfl, rfl, rfl, rfl, rfl, rfl⟩

@[simp] theorem progress_loadSr (v : Byte) (s : State) : progress (loadSr v s) = progress s := by
  unfold loadSr
  split <;> rfl

/-- Taking an error condition, and an acknowledge, write the indicator alone (R32, R180). -/
@[simp] theorem progress_indicator (s : State) :
    (∀ e, progress (takeError e s) = { progress s with err := true }) ∧
    progress (clearErr s) = { progress s with err := false } :=
  ⟨fun _ => rfl, rfl⟩

@[simp] theorem progress_startGen (s : State) : progress (startGen s) = progress s := by simp [startGen]

@[simp] theorem progress_stopGen (s : State) : progress (stopGen s) = progress s := by simp [stopGen]

@[simp] theorem progress_stopActions (s : State) : progress (stopActions s) = progress s :=
  progress_stopGen s

@[simp] theorem progress_afterAnswer (s : State) : progress (afterAnswer s) = progress s := by
  rw [afterAnswer_frame]
  rfl

@[simp] theorem progress_clockBit (sym : Bool → Bool → Sym) (tSda : Bool) (s : State) :
    progress (clockBit sym tSda s) = progress s := by
  rw [clockBit_eq]
  rfl

@[simp] theorem progress_waitFor (s : State) : progress (waitFor s) = progress s := by
  unfold waitFor
  split <;> rfl

@[simp] theorem progress_advanceCursor (s : State) : progress (advanceCursor s) = (progress s).advance s.lenw := rfl

/-- A payload byte goes out only from below `LEN` (R61), and moves the cursor on (R155, R158). -/
theorem sendPayloadByte_next {s t : State} (h : sendPayloadByte s = .next t) :
    s.cursor < s.len ∧ progress t = { (progress s).advance s.lenw with err := false } := by
  have hlenw (v : Byte) (u : State) : (loadSr v u).lenw = u.lenw := congrArg Untouched.lenw (untouched_loadSr v u)
  unfold sendPayloadByte payloadOperand at h
  by_cases hc : s.cursor < s.len <;> simp [hc] at h
  cases h
  exact ⟨hc, by simp [hlenw, Progress.advance]⟩

/-! ## Every operation -/

/-- The outcome leaves `p` in that part, where it is a next state. -/
def Yields (p : Progress) (r : Result) : Prop := ∀ t, r = .next t → progress t = p

theorem yields_next {s : State} {p : Progress} (h : progress s = p) : Yields p (.next s) := by
  rintro _ ⟨⟩
  exact h

theorem yields_fault (p : Progress) (r : Fault) : Yields p (.fault r) := by
  rintro t ⟨⟩

theorem yields_invoke {s : State} {op : State → Result} {p : Progress} (h : Yields p (op s)) :
    Yields (if ctrlEnabled s then p else progress s) (invoke op s) := by
  intro t ht
  obtain ⟨hi, hg, u, hu, rfl⟩ | ⟨hoff, rfl⟩ := invoke_next ht
  · simpa [ctrlEnabled, hi, hg] using h u hu
  · rcases hoff with hoff | hoff <;> simp [ctrlEnabled, hoff]

/-- A phase operation that leaves that part alone does so whether it is enabled or not. -/
theorem yields_invoke_same {s : State} {op : State → Result} (h : Yields (progress s) (op s)) :
    Yields (progress s) (invoke op s) := by
  simpa using yields_invoke h

theorem yields_seqStep (out : Bool) (sym : Bool → Bool → Sym) (s : State) :
    Yields (progress s) (seqStep out sym s) := by
  obtain ⟨-, -, -, h⟩ | ⟨-, -, -, h⟩ | ⟨-, h⟩ := seqStep_cases out sym s <;> rw [h] <;> exact yields_next (by simp)

theorem yields_kickOff (a : Addr) (len : Nat) (s : State) :
    Yields { progress s with addrByte := frameAddress a, cursor := 0 } (kickOff a len s) := by
  intro t ht
  rw [kickOff_eq] at ht
  split_ifs at ht
  cases ht
  rfl

theorem yields_writeTransaction (a : Addr) (len : Nat) (s : State) :
    Yields { progress s with addrByte := frameAddress a, cursor := 0 } (execWriteTransaction a len s) := by
  intro t ht
  unfold execWriteTransaction at ht
  split at ht <;> cases ht
  simpa using yields_kickOff a len s _ ‹_›

/-- What every operation leaves in that part. -/
theorem progress_exec {i : Instr} {s t : State} (h : exec i s = .next t) : progress t = progressAfter i s := by
  suffices hy : Yields (progressAfter i s) (exec i s) from hy t h
  cases i
  case wt a len => exact yields_kickOff a len s
  case writeTransaction a len => exact yields_writeTransaction a len s
  case phAddrCheckAck | phDataCheckNext => exact yields_invoke fun u hu => (sendPayloadByte_next hu).2
  case phAddrCheckNack | phDataCheckNack | phDataCheckLast =>
    dsimp only [exec, execPhAddrCheckNack, execPhDataCheckNack, execPhDataCheckLast, progressAfter]
    apply yields_invoke
    exact yields_next (by simp)
  case phStart | phAddrAck | phDataAck =>
    dsimp only [exec, execPhStart, execPhAddrAck, execPhDataAck, progressAfter]
    apply yields_invoke_same
    exact yields_next (by simp [openAckSlot])
  case reserved101 | reserved11x => exact yields_fault _ _
  case txBit | rxBit => exact yields_seqStep _ _ s
  case reset => exact yields_next rfl
  case readRx | readErr => exact yields_next rfl
  case dirOut | dirIn | raiseIfg | clearIfg | latchOpen | latchClose | sclRelease | loadCnt => exact yields_next rfl
  case loadSr => exact yields_next (progress_loadSr _ s)
  case startGen => exact yields_next (progress_startGen s)
  case stopGen => exact yields_next (progress_stopGen s)
  case stopActions => exact yields_next (progress_stopActions s)
  case wait => exact yields_next (progress_waitFor s)

/-! ## The address byte -/

/-- Every operation keeps the direction bit of the address byte at write (R82). -/
theorem writeOnly_exec {i : Instr} {s t : State} (h : exec i s = .next t) (hs : WriteOnly s) : WriteOnly t := by
  obtain ⟨ha, -⟩ := progress_eq_iff.1 (progress_exec h)
  rw [WriteOnly, ha]
  unfold progressAfter
  split
  case h_1 | h_2 => exact frameAddress_direction _
  case h_3 | h_4 | h_5 | h_6 | h_7 => split <;> exact hs
  case h_8 => rfl
  case h_9 => exact hs

/-- Settles O47: a step runs an operation, a change of the buffer, or nothing. -/
theorem stepKeepsWriteBit : Obligations.StepKeepsWriteBit := by
  unfold Obligations.StepKeepsWriteBit
  intro s t hs h
  obtain ⟨u, hu, hran⟩ := step_ran h
  have hsu : WriteOnly u := by
    rw [hu, samplePins_frame]
    exact hs
  obtain ⟨i, he⟩ | ⟨i, b, hp⟩ | rfl := hran
  · exact writeOnly_exec he hsu
  · unfold hostPoke at hp
    split_ifs at hp
    cases hp
    exact hsu
  · exact hsu

/-! ## The cursor -/

/-- An enabled load of a payload byte had one left to load (R61). -/
theorem cursor_lt_len_of_load {i : Instr} {s t : State} (hload : i = .phAddrCheckAck ∨ i = .phDataCheckNext)
    (hon : ctrlEnabled s = true) (h : exec i s = .next t) : s.cursor < s.len := by
  have hinv : invoke sendPayloadByte s = .next t := by rcases hload with rfl | rfl <;> exact h
  obtain ⟨-, -, u, hu, -⟩ | ⟨hoff, -⟩ := invoke_next hinv
  · exact (sendPayloadByte_next hu).1
  · rcases hoff with hoff | hoff <;> simp [ctrlEnabled, hoff] at hon

/-- A kick-off, reset and an enabled load apart, an operation leaves the cursor and the record of reads alone (R165). -/
theorem progressAfter_cursor_reads {i : Instr} {s : State} (hkick : ∀ a len, i ≠ .wt a len ∧ i ≠ .writeTransaction a len)
    (hreset : i ≠ .reset) (hoff : i = .phAddrCheckAck ∨ i = .phDataCheckNext → ctrlEnabled s = false) :
    (progressAfter i s).cursor = s.cursor ∧ (progressAfter i s).reads = s.reads := by
  unfold progressAfter
  split
  case h_1 a len => exact absurd rfl (hkick a len).1
  case h_2 a len => exact absurd rfl (hkick a len).2
  case h_3 | h_4 =>
    rw [hoff (by simp)]
    exact ⟨rfl, rfl⟩
  case h_5 | h_6 | h_7 => split <;> exact ⟨rfl, rfl⟩
  case h_8 => exact absurd rfl hreset
  case h_9 => exact ⟨rfl, rfl⟩

/-- Settles O52, by what every operation leaves in the cursor and the record of reads. -/
theorem cursorLaw : Obligations.CursorLaw := by
  unfold Obligations.CursorLaw
  intro i s t h
  obtain ⟨-, hcursor, hreads, -⟩ := progress_eq_iff.1 (progress_exec h)
  rw [hcursor, hreads]
  refine ⟨?_, ?_, ?_, ?_⟩
  · rintro ⟨a, len, rfl | rfl⟩ <;> exact ⟨rfl, rfl⟩
  · intro hload hi hg
    have hon : ctrlEnabled s = true := by simp [ctrlEnabled, hi, hg]
    have hlt := cursor_lt_len_of_load hload hon h
    have hafter : progressAfter i s = { (progress s).advance s.lenw with err := false } := by
      rcases hload with rfl | rfl <;> simp [progressAfter, hon]
    rw [hafter]
    exact ⟨hlt, fun hw => Nat.mod_eq_of_lt (Nat.lt_of_le_of_lt hlt hw), rfl⟩
  · rintro rfl
    exact ⟨rfl, rfl⟩
  · intro hkick hreset hoff
    refine progressAfter_cursor_reads hkick hreset fun hload => ?_
    rcases hoff hload with hoff | hoff <;> simp [ctrlEnabled, hoff]

/-! ## The error indicator -/

/-- The operations that write `ERR`: the five CHECK operations, and reset (R32). -/
theorem progressAfter_err (i : Instr) (s : State) : (progressAfter i s).err = s.err ∨
    i ∈ [Instr.phAddrCheckAck, .phAddrCheckNack, .phDataCheckNext, .phDataCheckLast, .phDataCheckNack, .reset] := by
  cases i
  case phAddrCheckAck | phAddrCheckNack | phDataCheckNext | phDataCheckLast | phDataCheckNack | reset => simp
  all_goals exact .inl rfl

/-- Settles O53, by what every operation leaves in the indicator; in a CHECK phase `NACK` chooses the operation. -/
theorem errorIndicatorWriters : Obligations.ErrorIndicatorWriters := by
  unfold Obligations.ErrorIndicatorWriters
  refine ⟨fun i s t h hne => ?_, fun s t halone hi hg hp h => ?_⟩
  · obtain ⟨-, -, -, herr⟩ := progress_eq_iff.1 (progress_exec h)
    exact (progressAfter_err i s).resolve_left fun hkept => hne (herr.trans hkept)
  · rw [step_blockAlone halone, if_pos hi, if_pos hg, decodeDw_dw] at h
    obtain ⟨-, -, -, herr⟩ := progress_eq_iff.1 (progress_exec h)
    rw [herr]
    rcases hp with hp | hp <;> cases nack s <;> cases last s <;>
      simp [decodePhase, hp, progressAfter, ctrlEnabled, hi, hg]

end Sys2Proof.Machine
end

section
/-! PROOFS. The payload: reading out of its range (R61), and the canonical form of the caller's buffer (R60, R65). -/

namespace Sys2Proof.Machine

/-- There is no payload byte to go on with at or above `LEN`. -/
theorem sendPayloadByte_fault {s : State} (h : s.len ≤ s.cursor) : sendPayloadByte s = .fault .payloadOutOfRange := by
  simp [sendPayloadByte, payloadOperand, Nat.not_lt.2 h]

/-- Settles O17: both operations are the enabled invocation of one shared operation, which faults there. -/
theorem payloadReadOutOfRangeFaults : Obligations.PayloadReadOutOfRangeFaults := by
  unfold Obligations.PayloadReadOutOfRangeFaults
  intro i s hread hi hg hrange
  have hfault : invoke sendPayloadByte s = .fault .payloadOutOfRange := by
    rw [invoke_enabled _ hi hg, sendPayloadByte_fault hrange]
    rfl
  rcases hread with rfl | rfl <;> exact hfault

/-- Every operation leaves the payload and the width of its indices alone. -/
theorem payload_lenw_exec {i : Instr} {s t : State} (h : exec i s = .next t) :
    t.payload = s.payload ∧ t.lenw = s.lenw := by
  obtain ⟨hpayload, -, -, -, -, -, hlenw, -⟩ := operationsLeavePayloadPortsParameters i s t h
  exact ⟨hpayload, hlenw⟩

/-- The host's change of its buffer keeps the canonical form: its index is in the payload space. -/
theorem payloadCanonical_hostPoke {i : Nat} {b : Byte} {s t : State} (h : hostPoke i b s = .next t)
    (hs : Memory.wf s.lenw s.payload = true) : Memory.wf t.lenw t.payload = true := by
  unfold hostPoke at h
  split_ifs at h with hi
  cases h
  exact Memory.wf_write (Nat.lt_of_not_le hi) hs

/-- Settles O48: a step runs an operation, a change of the buffer, or nothing. -/
theorem stepKeepsPayloadCanonical : Obligations.StepKeepsPayloadCanonical := by
  unfold Obligations.StepKeepsPayloadCanonical
  intro s t hs h
  obtain ⟨u, hu, hran⟩ := step_ran h
  have hsu : Memory.wf u.lenw u.payload = true := by
    rw [hu, samplePins_frame]
    exact hs
  obtain ⟨i, he⟩ | ⟨i, b, hp⟩ | rfl := hran
  · obtain ⟨hpayload, hlenw⟩ := payload_lenw_exec he
    rwa [hpayload, hlenw]
  · exact payloadCanonical_hostPoke hp hsu
  · exact hsu

end Sys2Proof.Machine
end

section
/-! PROOFS. Where each wire symbol comes from (R73). -/

namespace Sys2Proof.Machine

/-! ## The trace of a record that goes on -/

/-- The trace of a record that goes on by pin changes alone. -/
theorem wire_eq_of_silent {s t : State} {b : List Event} (he : t.events = s.events ++ b) (hb : symbols b = []) :
    wire t = wire s := by
  rw [wire_of_events he, hb, List.append_nil]

/-- The trace of a record that goes on with one symbol among pin changes. -/
theorem wire_eq_concat {s t : State} {b : List Event} {y : Sym} (he : t.events = s.events ++ b) (hb : symbols b = [y]) :
    wire t = wire s ++ [y] := by
  rw [wire_of_events he, hb]

/-! ## The shared operations -/

@[simp] theorem wire_setters (s : State) :
    (∀ b, wire (setOe b s) = wire s) ∧ (∀ b, wire (setSdaq b s) = wire s) ∧ (∀ b, wire (setSclq b s) = wire s) ∧
    (∀ p, wire (setPhase p s) = wire s) ∧ (∀ n, wire (loadCnt n s) = wire s) ∧
    (∀ e, wire (takeError e s) = wire s) ∧ wire (clearErr s) = wire s ∧ wire (advanceCursor s) = wire s :=
  ⟨fun _ => wire_eq_of_silent rfl rfl, fun _ => wire_eq_of_silent rfl rfl, fun _ => wire_eq_of_silent rfl rfl,
    fun _ => rfl, fun _ => rfl, fun _ => rfl, rfl, rfl⟩

@[simp] theorem wire_primitives (s : State) :
    wire (dirOut s) = wire s ∧ wire (dirIn s) = wire s ∧ wire (raiseIfg s) = wire s ∧ wire (clearIfg s) = wire s ∧
    wire (latchOpen s) = wire s ∧ wire (latchClose s) = wire s ∧ wire (sclRelease s) = wire s :=
  ⟨wire_eq_of_silent rfl rfl, wire_eq_of_silent rfl rfl, rfl, rfl, wire_eq_of_silent rfl rfl, rfl,
    wire_eq_of_silent rfl rfl⟩

@[simp] theorem wire_emit (y : Sym) (s : State) : wire (emit y s) = wire s ++ [y] := wire_eq_concat rfl rfl

@[simp] theorem wire_loadSr (v : Byte) (s : State) : wire (loadSr v s) = wire s := by
  unfold loadSr
  split
  · exact wire_eq_of_silent rfl rfl
  · rfl

@[simp] theorem wire_afterAnswer (s : State) : wire (afterAnswer s) = wire s := by
  rw [afterAnswer_frame]
  rfl

@[simp] theorem wire_waitFor (s : State) : wire (waitFor s) = wire s := by
  unfold waitFor
  split <;> rfl

/-- The start generator emits `S` (R110). -/
@[simp] theorem wire_startGen (s : State) : wire (startGen s) = wire s ++ [.start] := by simp [startGen]

/-- The stop generator emits `P` (R111). -/
@[simp] theorem wire_stopGen (s : State) : wire (stopGen s) = wire s ++ [.stop] := by simp [stopGen]

/-- The stop actions emit `P`, as the generator does (R167). -/
@[simp] theorem wire_stopActions (s : State) : wire (stopActions s) = wire s ++ [.stop] := wire_stopGen s

/-- A bit step emits one symbol, made from the bit that the latch holds and the bit sampled, which `NACK` then reads
(R35, R121, R122). -/
theorem wire_clockBit (sym : Bool → Bool → Sym) (tSda : Bool) (s : State) :
    wire (clockBit sym tSda s) = wire s ++ [sym (s.sr.getLsbD 7) (nack (clockBit sym tSda s))] := by
  rw [clockBit_eq, nack, shiftIn_low]
  exact wire_eq_concat rfl rfl

/-! ## Every operation -/

/-- Which operation emits which symbol. -/
inductive Emits : Instr → Sym → Prop where
  | startGen : Emits .startGen .start
  | phStart : Emits .phStart .start
  | stopGen : Emits .stopGen .stop
  | stopActions : Emits .stopActions .stop
  | phAddrCheckNack : Emits .phAddrCheckNack .stop
  | phDataCheckLast : Emits .phDataCheckLast .stop
  | phDataCheckNack : Emits .phDataCheckNack .stop
  | txBit (b : Bool) : Emits .txBit (.tx b)
  | rxBit (b : Bool) : Emits .rxBit (.rx b)

/-- Where the outcome is a next state, the trace is as in `s` or has one symbol more, one that `i` emits. -/
def WireGrows (i : Instr) (s : State) (r : Result) : Prop :=
  ∀ t, r = .next t → wire t = wire s ∨ ∃ y, Emits i y ∧ wire t = wire s ++ [y]

theorem wireGrows_same {i : Instr} {s t : State} (h : wire t = wire s) : WireGrows i s (.next t) := by
  rintro _ ⟨⟩
  exact .inl h

theorem wireGrows_emit {i : Instr} {s t : State} {y : Sym} (hy : Emits i y) (h : wire t = wire s ++ [y]) :
    WireGrows i s (.next t) := by
  rintro _ ⟨⟩
  exact .inr ⟨y, hy, h⟩

theorem wireGrows_fault (i : Instr) (s : State) (r : Fault) : WireGrows i s (.fault r) := by
  rintro t ⟨⟩

theorem wireGrows_invoke {i : Instr} {s : State} {op : State → Result} (h : WireGrows i s (op s)) :
    WireGrows i s (invoke op s) := by
  intro t ht
  obtain ⟨-, -, u, hu, rfl⟩ | ⟨-, rfl⟩ := invoke_next ht
  · exact h u hu
  · exact .inl rfl

theorem wireGrows_sendPayloadByte (i : Instr) (s : State) : WireGrows i s (sendPayloadByte s) := by
  unfold sendPayloadByte
  dsimp only
  split
  · exact wireGrows_same (by simp)
  · exact wireGrows_fault _ _ _

theorem wireGrows_seqStep {i : Instr} {sym : Bool → Bool → Sym} (hsym : ∀ d b, Emits i (sym d b)) (out : Bool)
    (s : State) : WireGrows i s (seqStep out sym s) := by
  obtain ⟨-, -, -, h⟩ | ⟨-, -, -, h⟩ | ⟨-, h⟩ := seqStep_cases out sym s <;> rw [h]
  · exact wireGrows_emit (hsym _ _) (by rw [wire_clockBit, wire_afterAnswer])
  · exact wireGrows_same (wire_afterAnswer s)
  · exact wireGrows_same rfl

theorem wireGrows_kickOff (i : Instr) (a : Addr) (len : Nat) (s : State) : WireGrows i s (kickOff a len s) := by
  intro t ht
  rw [kickOff_eq] at ht
  split_ifs at ht
  cases ht
  exact .inl rfl

theorem wireGrows_writeTransaction (i : Instr) (a : Addr) (len : Nat) (s : State) :
    WireGrows i s (execWriteTransaction a len s) := by
  intro t ht
  unfold execWriteTransaction at ht
  split at ht <;> cases ht
  simpa using wireGrows_kickOff i a len s _ ‹_›

/-- Reset apart, an operation leaves the trace alone or emits one symbol of its own. -/
theorem wireGrows_exec {i : Instr} (hreset : i ≠ .reset) (s : State) : WireGrows i s (exec i s) := by
  cases i
  case reset => exact absurd rfl hreset
  case wt a len => exact wireGrows_kickOff _ a len s
  case writeTransaction a len => exact wireGrows_writeTransaction _ a len s
  case startGen => exact wireGrows_emit .startGen (wire_startGen s)
  case stopGen => exact wireGrows_emit .stopGen (wire_stopGen s)
  case stopActions => exact wireGrows_emit .stopActions (wire_stopActions s)
  case phStart =>
    dsimp only [exec, execPhStart]
    exact wireGrows_invoke (wireGrows_emit .phStart (by simp))
  case phAddrCheckNack | phDataCheckLast | phDataCheckNack =>
    dsimp only [exec, execPhAddrCheckNack, execPhDataCheckLast, execPhDataCheckNack]
    exact wireGrows_invoke (wireGrows_emit (y := .stop) (by constructor) (by simp))
  case phAddrAck | phDataAck =>
    dsimp only [exec, execPhAddrAck, execPhDataAck]
    exact wireGrows_invoke (wireGrows_same (by simp [openAckSlot]))
  case phAddrCheckAck | phDataCheckNext => exact wireGrows_invoke (wireGrows_sendPayloadByte _ s)
  case txBit => exact wireGrows_seqStep (fun d _ => .txBit d) _ s
  case rxBit => exact wireGrows_seqStep (fun _ b => .rxBit b) _ s
  case reserved101 | reserved11x => exact wireGrows_fault _ s _
  case dirOut | dirIn | loadSr | loadCnt | raiseIfg | clearIfg | latchOpen | latchClose | sclRelease =>
    exact wireGrows_same (by simp)
  case readRx | readErr => exact wireGrows_same rfl
  case wait => exact wireGrows_same (wire_waitFor s)

/-- Settles O55, by the symbols that each operation emits. -/
theorem wireSymbolSources : Obligations.WireSymbolSources := by
  unfold Obligations.WireSymbolSources
  intro i s t h hreset
  obtain hsame | ⟨y, hy, hw⟩ := wireGrows_exec hreset s t h
  · exact .inl hsame
  cases hy
  case startGen | phStart => exact .inr (.inl ⟨hw, by simp⟩)
  case stopGen | stopActions | phAddrCheckNack | phDataCheckLast | phDataCheckNack =>
    exact .inr (.inr (.inl ⟨hw, by simp⟩))
  case txBit b => exact .inr (.inr (.inr (.inl ⟨rfl, b, hw⟩)))
  case rxBit b => exact .inr (.inr (.inr (.inr ⟨rfl, b, hw⟩)))

end Sys2Proof.Machine
end

section
/-! PROOFS. The wire trace stays a beginning of well-formed transactions (R73, R163). -/

namespace Sys2Proof.Machine

/-! ## Reading on in the wire trace -/

/-- A trace read as far as the registers of `s` say goes on to `t` by one symbol that leads there. -/
theorem TraceShaped.emit {s t : State} {y : Sym} (h : TraceShaped s) (hw : wire t = wire s ++ [y])
    (hn : (wireStateOf s).next y = some (wireStateOf t)) : TraceShaped t := by
  rw [TraceShaped, hw, WireState.run_append _ h]
  simp [WireState.run, hn]

/-- The reading stays where it is, where no symbol is emitted and the registers say the same. -/
theorem TraceShaped.of_silent {s t : State} (h : TraceShaped s) (hw : wire t = wire s)
    (hr : wireStateOf t = wireStateOf s) : TraceShaped t := by
  rwa [TraceShaped, hw, hr]

/-! ## How far the registers say the trace has come -/

/-- Before the start condition, and with no transaction in flight, none is open in the trace. -/
theorem wireStateOf_eq_idle {s : State} (h : s.busy = false ∨ s.phase = 0b000#3) : wireStateOf s = .idle :=
  if_pos h

/-- While a byte goes out: its eight bits sent where the completion is pending, otherwise as many as the count says; the
first bit of a data byte is what shows that the transaction goes on. -/
theorem InGroup.wireStateOf_byte {s : State} (h : InGroup s) (hp : s.phase = 0b001#3 ∨ s.phase = 0b011#3) :
    wireStateOf s =
      if s.ifg then .ackDue s.cursor
      else if cnt s = 8#5 ∧ s.phase = 0b011#3 then .acked false (s.cursor - 1)
      else .inByte (8 - (cnt s).toNat) s.cursor := by
  have hunsent := h.unsent
  rcases hp with hp | hp <;> simp [hp] at hunsent <;> simp [wireStateOf, h.busy, hp, hunsent]

/-- In an acknowledge slot: answered where its completion is pending. -/
theorem InGroup.wireStateOf_slot {s : State} (h : InGroup s) (hp : s.phase = 0b010#3 ∨ s.phase = 0b100#3) :
    wireStateOf s = if s.ifg then .acked (nack s) s.cursor else .ackDue s.cursor := by
  have hunsent := h.unsent
  rcases hp with hp | hp <;> simp [hp] at hunsent <;> simp [wireStateOf, h.busy, hp, hunsent]

/-! ## Operations that emit no symbol -/

/-- Using an answer of the oracle emits nothing. -/
theorem TraceShaped.afterAnswer {s : State} (h : TraceShaped s) : TraceShaped (afterAnswer s) := by
  rw [afterAnswer_frame]
  exact h

/-- A kick-off emits nothing: the start condition is still to come. -/
theorem TraceShaped.kickOff {a : Addr} {len : Nat} {s t : State} (h : TraceShaped s)
    (ht : kickOff a len s = .next t) : TraceShaped t := by
  rw [kickOff_eq] at ht
  split_ifs at ht with _ hb
  cases ht
  refine h.of_silent rfl ?_
  rw [wireStateOf_eq_idle (.inr rfl), wireStateOf_eq_idle (.inl (by simpa using hb))]

/-- Being blocked changes the script alone. -/
theorem TraceShaped.waitFor {s : State} (h : TraceShaped s) : TraceShaped (waitFor s) := by
  unfold Machine.waitFor
  split <;> exact h

/-- The pair `WT; WAIT` emits nothing, as its parts do. -/
theorem TraceShaped.writeTransaction {a : Addr} {len : Nat} {s t : State} (h : TraceShaped s)
    (ht : execWriteTransaction a len s = .next t) : TraceShaped t := by
  unfold execWriteTransaction at ht
  split at ht <;> cases ht
  exact (h.kickOff ‹_›).waitFor

/-- A change of the host's buffer is outside the block. -/
theorem TraceShaped.hostPoke {i : Nat} {b : Byte} {s t : State} (h : TraceShaped s) (ht : hostPoke i b s = .next t) :
    TraceShaped t := by
  unfold Machine.hostPoke at ht
  split_ifs at ht
  cases ht
  exact h

/-- After a reset the trace is empty and no transaction is open (R210). -/
theorem traceShaped_resetBlock (s : State) : TraceShaped (resetBlock s) := rfl

/-- Sampling the pins emits nothing. -/
theorem TraceShaped.samplePins {s : State} (h : TraceShaped s) : TraceShaped (samplePins s) := by
  rw [samplePins_frame]
  exact h

/-! ## The bit step -/

/-- The count of bits to come against the count of bits sent: the last bit is the eighth, and each is one more. -/
theorem bitsSent_of_count {c : BitVec 5} (hc : c ≠ 0#5) (hle : c ≤ 8#5) :
    (8 - c.toNat = 7 ↔ c - 1#5 = 0#5) ∧ 8 - (c - 1#5).toNat = 8 - c.toNat + 1 := by
  constructor <;> bv_omega

/-- What a bit step leaves of the registers that say how far the trace has come. -/
theorem clockBit_position (sym : Bool → Bool → Sym) (tSda : Bool) (s : State) :
    (clockBit sym tSda s).phase = s.phase ∧ (clockBit sym tSda s).cursor = s.cursor ∧
      cnt (clockBit sym tSda s) = cnt s - 1#5 := by
  rw [clockBit_eq]
  exact ⟨rfl, rfl, count_decCount _⟩

/-- A transmit step takes the reading one bit on in a byte. -/
theorem InGroup.next_clockBit_byte {s : State} (h : InGroup s) (hc : cnt s ≠ 0#5)
    (hp : s.phase = 0b001#3 ∨ s.phase = 0b011#3) (sym : Bool → Bool → Sym) (tSda b : Bool) :
    (wireStateOf s).next (.tx b) = some (wireStateOf (Machine.clockBit sym tSda s)) := by
  obtain ⟨hlast, hsent⟩ := bitsSent_of_count hc h.bound
  obtain ⟨hphase, hcursor, hcnt⟩ := clockBit_position sym tSda s
  have ht := h.clockBit hc sym tSda
  have hi : s.ifg = false := by simpa [hc] using h.pending
  have hne : cnt s - 1#5 ≠ 8#5 := by have := h.bound; bv_omega
  rw [h.wireStateOf_byte hp, ht.wireStateOf_byte (hphase ▸ hp), hphase, hcursor]
  simp only [ht.pending, hcnt, hi, hne, ← hlast, hsent]
  by_cases h8 : cnt s = 8#5 ∧ s.phase = 0b011#3
  · have hsome : s.cursor ≠ 0 := by simp [h.unsent, h8]
    simp [h8, WireState.next, Nat.sub_add_cancel (Nat.pos_of_ne_zero hsome)]
  · simp [h8, WireState.next, apply_ite]

/-- A receive step takes the reading past the acknowledge slot. -/
theorem InGroup.next_clockBit_slot {s : State} (h : InGroup s) (hc : cnt s ≠ 0#5)
    (hp : s.phase = 0b010#3 ∨ s.phase = 0b100#3) (sym : Bool → Bool → Sym) (tSda : Bool) :
    (wireStateOf s).next (.rx (nack (Machine.clockBit sym tSda s))) =
      some (wireStateOf (Machine.clockBit sym tSda s)) := by
  obtain ⟨hphase, hcursor, hcnt⟩ := clockBit_position sym tSda s
  have ht := h.clockBit hc sym tSda
  have hi : s.ifg = false := by simpa [hc] using h.pending
  have hlast : cnt s - 1#5 = 0#5 := by
    obtain ⟨hbyte, -⟩ | ⟨-, -, hone⟩ := h.group
    · rcases hp with hp | hp <;> simp [hp] at hbyte
    · bv_omega
  rw [h.wireStateOf_slot hp, ht.wireStateOf_slot (hphase ▸ hp), hcursor]
  simp [ht.pending, hcnt, hi, hlast, WireState.next]

/-- A bit step emits the symbol of its direction, and the reading follows. -/
theorem TraceShaped.clockBit {s : State} (h : TraceShaped s) (hg : InGroup s) (hc : cnt s ≠ 0#5) (tSda : Bool) :
    TraceShaped (clockBit (if s.oe then fun d _ => .tx d else fun _ b => .rx b) tSda s) := by
  refine h.emit (wire_clockBit _ _ _) ?_
  obtain ⟨hp, hoe⟩ | ⟨hp, hoe, -⟩ := hg.group
  · simpa only [hoe, if_true] using hg.next_clockBit_byte hc hp _ _ _
  · simpa only [hoe, Bool.false_eq_true, if_false] using hg.next_clockBit_slot hc hp _ _

/-! ## The block's own step -/

/-- The block's own step keeps the shape of the trace: `S` opens a transaction, an acknowledge slot follows the eight
bits of a byte, a payload byte follows an acknowledge, and `P` follows the last one or a refusal. -/
theorem TraceShaped.block {u t : State} (hI : BlockInv u) (hT : TraceShaped u)
    (h : (u.ifg = true ∧ u.gie = true ∧ exec (decodePhase u.phase (nack u) (last u)) u = .next t) ∨
      (u.ifg = false ∧ cnt u ≠ 0#5 ∧ exec (if u.oe then .txBit else .rxBit) u = .next t) ∨ t = u) :
    TraceShaped t := by
  obtain ⟨hs, -⟩ := blockInv_iff.1 hI
  have hIt := hI.block h
  have hcount (n : Byte) : (withCount u.cntreg n).extractLsb' 0 5 = n.extractLsb' 0 5 := count_withCount _ _
  obtain rfl | hstart | hslot | hload | hstop | hwithheld | hbit := block_cases hI h
  · exact hT
  · obtain ⟨hi, hp, rfl⟩ := hstart
    refine hT.emit (wire_eq_concat rfl rfl) ?_
    rw [wireStateOf_eq_idle (.inr hp), (hIt.inGroup (by simp)).wireStateOf_byte (.inl rfl)]
    simp [WireState.next, cnt, hcount, (hI.atStart hi hp).cursor]
  · obtain ⟨hi, hp, rfl⟩ := hslot
    have hne : u.phase ≠ 0b000#3 := fun h => by simp [h] at hp
    have hnext : u.phase + 1#3 = 0b010#3 ∨ u.phase + 1#3 = 0b100#3 := by rcases hp with hp | hp <;> simp [hp]
    refine hT.of_silent (wire_eq_of_silent rfl rfl) ?_
    rw [(hI.inGroup hne).wireStateOf_byte hp,
      (hIt.inGroup (by rcases hnext with h | h <;> simp [h])).wireStateOf_slot hnext]
    simp [hi]
  · obtain ⟨hi, hp, hn, hcursor, rfl⟩ := hload
    have hne : u.phase ≠ 0b000#3 := fun h => by simp [h] at hp
    have hup : (u.cursor + 1) % 2 ^ u.lenw = u.cursor + 1 := Nat.mod_eq_of_lt (by have := hs.width.2; omega)
    refine hT.of_silent (wire_eq_of_silent rfl rfl) ?_
    rw [(hI.inGroup hne).wireStateOf_slot hp, (hIt.inGroup (by simp)).wireStateOf_byte (.inr rfl)]
    simp [hi, hn, cnt, hcount, hup]
  · obtain ⟨hi, hp, hend, rfl⟩ := hstop
    have hu := hI.inGroup fun h => by simp [h] at hp
    refine hT.emit (wire_eq_concat rfl rfl) ?_
    rw [hu.wireStateOf_slot hp, wireStateOf_eq_idle (.inl rfl), if_pos hi]
    cases hn : nack u
    · obtain ⟨hlast, -⟩ := hend hn
      have hsome : u.cursor ≠ 0 := by simp [hu.unsent, hlast]
      obtain ⟨k, hk⟩ := Nat.exists_eq_succ_of_ne_zero hsome
      rw [hk]
      rfl
    · rfl
  · obtain ⟨-, -, rfl⟩ := hwithheld
    exact hT.afterAnswer
  · obtain ⟨-, hc, rfl⟩ := hbit
    have hfields : cnt (Machine.afterAnswer u) = cnt u ∧ (Machine.afterAnswer u).oe = u.oe := by
      rw [afterAnswer_frame]
      exact ⟨rfl, rfl⟩
    obtain ⟨hcnt, hoe⟩ := hfields
    rw [← hcnt] at hc
    rw [← hoe]
    exact hT.afterAnswer.clockBit (hI.afterAnswer.inGroup_of_count hc) hc _

/-- Settles O50: reset empties the trace, the host's steps emit nothing, and the block's own step goes on as the grammar
does. -/
theorem stepKeepsTraceShape : Obligations.StepKeepsTraceShape := by
  unfold Obligations.StepKeepsTraceShape
  intro s t hI hT h
  have hIu := hI.samplePins
  have hTu := hT.samplePins
  have hnone : (samplePins s).strobe = none := (blockInv_iff.1 hIu).1.strobe
  obtain ⟨-, hreset⟩ | ⟨-, k, i, hstrobe, -⟩ | ⟨-, -, rest, hhost⟩ | ⟨-, -, hblock⟩ := step_cases h
  · cases hreset
    exact traceShaped_resetBlock _
  · simp [hnone] at hstrobe
  · replace hTu : TraceShaped { samplePins s with script := rest } := hTu
    obtain ⟨a, len, -, hwt⟩ | ⟨a, len, -, hwt⟩ | ⟨i, b, -, hpoke⟩ | ⟨-, -, hwait⟩ | ⟨-, -, hread⟩ := hhost
    · exact hTu.kickOff hwt
    · exact hTu.writeTransaction hwt
    · exact hTu.hostPoke hpoke
    · cases hwait
      exact hTu.waitFor
    · cases hread
      exact hTu
  · exact hTu.block hIu hblock

end Sys2Proof.Machine
end

section
/-! PROOFS. The decoder against the encoder and the tables (R80 to R91), and the steps that follow from the word or the
host statement that is next (R91, R93). -/

namespace Sys2Proof

/-! ## Decoding what was encoded -/

/-- Decoding inverts encoding; the macros and the host steps have no word, and the operands of `WT`, `LOAD_SR` and
`LOAD_CNT` stand beside the fixed bits. -/
theorem decode_of_encode {i : Instr} {w : OpWord} (h : encode i = some w) : decode w = .ok i := by
  cases i
  case startGen | stopGen | stopActions | wait | readErr | writeTransaction => cases h
  all_goals
    cases h
    rfl

/-- A packed command decodes to the command, at any `LENW` that can carry its length (R81). -/
theorem decode_unpackCmd_packCmd {lenw len : Nat} (a : Addr) (h : len < 2 ^ lenw) :
    decode (unpackCmd lenw (packCmd lenw 1#1 a len)) = .ok (.wt a len) := by
  rw [unpackCmd_packCmd _ _ h, decode_cmd]

/-- Settles O39: every encoding decodes back, and a packed command is unpacked first. -/
theorem decodeOfEncodeIsIdentity : Obligations.DecodeOfEncodeIsIdentity := by
  unfold Obligations.DecodeOfEncodeIsIdentity
  exact ⟨fun _ _ => decode_of_encode, fun _ _ a => decode_unpackCmd_packCmd a⟩

/-! ## Encoding what was decoded -/

/-- A command is presented exactly where `cmd_valid` is 1 (R81). -/
theorem decode_cmd_eq_ok_iff {v : BitVec 1} {a : Addr} {len : Nat} {i : Instr} :
    decode (.cmd v a len) = .ok i ↔ v = 1#1 ∧ .wt a len = i := by
  by_cases h : v = 1#1 <;> simp [decode, decodeCmd, h]

/-- The reset pin selects `RESET` exactly where it is 1 (R88). -/
theorem decode_pin_eq_ok_iff {w : BitVec 1} {i : Instr} : decode (.pin w) = .ok i ↔ w = 1#1 ∧ .reset = i := by
  by_cases h : w = 1#1 <;> simp [decode, decodePin, h]

/-- The primitive that bit `k` of a strobe word stands for, the operand byte beside it (R90). -/
def primitiveOfBit (operand : Byte) : Fin 10 → Instr
  | 9 => .dirOut
  | 8 => .dirIn
  | 7 => .loadSr operand
  | 6 => .loadCnt operand
  | 5 => .readRx
  | 4 => .raiseIfg
  | 3 => .clearIfg
  | 2 => .latchOpen
  | 1 => .latchClose
  | 0 => .sclRelease

/-- A strobe word decodes exactly where one bit of it is set, and to the primitive of that bit. -/
theorem decode_prim_eq_ok_iff {w : BitVec 10} {v : Byte} {i : Instr} :
    decode (.prim w v) = .ok i ↔ ∃ k : Fin 10, w = BitVec.twoPow 10 k ∧ primitiveOfBit v k = i := by
  constructor
  · intro h
    simp only [decode, decodePrim] at h
    split_ifs at h <;> cases h <;> subst w
    exacts [⟨9, rfl, rfl⟩, ⟨8, rfl, rfl⟩, ⟨7, rfl, rfl⟩, ⟨6, rfl, rfl⟩, ⟨5, rfl, rfl⟩, ⟨4, rfl, rfl⟩, ⟨3, rfl, rfl⟩,
      ⟨2, rfl, rfl⟩, ⟨1, rfl, rfl⟩, ⟨0, rfl, rfl⟩]
  · rintro ⟨k, rfl, rfl⟩
    fin_cases k <;> rfl

/-- The primitive of a bit is encoded with that bit alone. -/
theorem encode_primitiveOfBit (v : Byte) (k : Fin 10) :
    ∃ v', encode (primitiveOfBit v k) = some (.prim (BitVec.twoPow 10 k) v') := by
  fin_cases k <;> exact ⟨_, rfl⟩

/-- Settles O40: each decoder accepts the fixed bits that the encoder writes, and no others. -/
theorem encodeOfDecodeIsIdentity : Obligations.EncodeOfDecodeIsIdentity := by
  unfold Obligations.EncodeOfDecodeIsIdentity
  refine ⟨fun v a len i h => ?_, fun w i h => ?_, fun w i h => ?_, fun w v i h => ?_⟩
  · obtain ⟨rfl, rfl⟩ := decode_cmd_eq_ok_iff.1 h
    rfl
  · obtain rfl | rfl := BitVec.eq_zero_or_eq_one w <;> cases h <;> rfl
  · obtain ⟨rfl, rfl⟩ := decode_pin_eq_ok_iff.1 h
    rfl
  · obtain ⟨k, rfl, rfl⟩ := decode_prim_eq_ok_iff.1 h
    exact encode_primitiveOfBit v k

/-- Settles O42: the words that decode are those with one bit set. -/
theorem strobesAreOneHot : Obligations.StrobesAreOneHot := by
  unfold Obligations.StrobesAreOneHot
  intro w v
  constructor
  · rintro ⟨i, h⟩
    obtain ⟨k, hw, -⟩ := decode_prim_eq_ok_iff.1 h
    exact ⟨k, k.isLt, hw⟩
  · rintro ⟨k, hk, hw⟩
    exact ⟨_, decode_prim_eq_ok_iff.2 ⟨⟨k, hk⟩, hw, rfl⟩⟩

/-! ## The tables -/

/-- Settles O41: the map is finite, and the ten rows are checked at each of its 32 words. -/
theorem dispatchMapIsTheTable : Obligations.DispatchMapIsTheTable := by
  unfold Obligations.DispatchMapIsTheTable
  decide

/-- Settles O43: the command is the packing of its ports, and the other words are computed. -/
theorem specWordsDecode : Obligations.SpecWordsDecode := by
  unfold Obligations.SpecWordsDecode
  have hcmd := decode_unpackCmd_packCmd (lenw := 8) (len := 2) 0x74#7 (by decide)
  exact ⟨hcmd, rfl, rfl, rfl, rfl, decode_seq true, rfl, rfl, rfl⟩

end Sys2Proof

namespace Sys2Proof.Machine

/-- The framed byte is the address one place up (R82). -/
theorem frameAddress_eq_shiftLeft (a : Addr) : frameAddress a = (a.zeroExtend 8) <<< 1 := by
  rw [frameAddress, BitVec.append_def, BitVec.shiftLeftZeroExtend_eq, BitVec.setWidth'_eq, BitVec.setWidth_zero,
    BitVec.or_zero]

/-- Bits 7 to 1 of the framed byte are the address (R23). -/
theorem frameAddress_address (a : Addr) : (frameAddress a).extractLsb' 1 7 = a :=
  BitVec.extractLsb'_append_eq_left

/-- Settles O44: the shift, the address field and the direction bit of the framed byte. -/
theorem addressByteFramesWriteBit : Obligations.AddressByteFramesWriteBit := by
  unfold Obligations.AddressByteFramesWriteBit
  exact fun a => ⟨frameAddress_eq_shiftLeft a, frameAddress_address a, frameAddress_direction a⟩

/-! ## The sequencer's and the host's steps -/

/-- Settles O25: with no completion pending and the count not 0 the block's own step is the sequencer's. -/
theorem directionSelectsBitOperation : Obligations.DirectionSelectsBitOperation := by
  unfold Obligations.DirectionSelectsBitOperation
  intro s halone hifg hcnt
  have hstep : step s = exec (if s.oe then .txBit else .rxBit) s := by
    simp [step_blockAlone halone, hifg, hcnt]
  exact ⟨decode_seq s.oe, fun ho => by simpa [ho] using hstep, fun ho => by simpa [ho] using hstep⟩

/-- A kick-off that keeps the duties of R141 completes with the transaction in flight and the script as it was. -/
theorem kickOff_next {a : Addr} {len : Nat} {s : State} (hb : s.busy = false) (h0 : len ≠ 0) (hl : len < 2 ^ s.lenw) :
    ∃ t, kickOff a len s = .next t ∧ t.busy = true ∧ t.script = s.script := by
  rw [kickOff_eq, if_neg (Nat.not_le.2 hl), hb, if_neg Bool.false_ne_true, if_neg h0]
  exact ⟨_, rfl, rfl, rfl⟩

/-- Settles O31: the `WAIT` of the pair finds the transaction in flight and is put at the head of the script. -/
theorem writeTransactionIsKickOffThenWait : Obligations.WriteTransactionIsKickOffThenWait := by
  unfold Obligations.WriteTransactionIsKickOffThenWait
  intro a len s hb h0 hl
  obtain ⟨t, hkick, hbusy, hscript⟩ := kickOff_next (a := a) hb h0 hl
  refine ⟨t, hkick, ?_⟩
  simp [exec, execWriteTransaction, hkick, waitFor, hbusy, hscript]

/-- With reset released, no pin change scheduled and no strobe the choice is the host's. -/
theorem select_eq_selectHost {s : State} (hr : s.rst = false) (hp : s.pins = []) (hs : s.strobe = none) :
    select (samplePins s) = selectHost s := by
  simp [samplePins_held hp, select, hr, hs]

/-- Settles O38, statement by statement. -/
theorem stepTakesHostStatement : Obligations.StepTakesHostStatement := by
  unfold Obligations.StepTakesHostStatement
  intro s rest hr hp hs
  have hsel := select_eq_selectHost hr hp hs
  refine ⟨fun a len hc => ?_, fun a len hc => ?_, fun hc hb => ?_, fun hc hb => ?_⟩
  · simp [step, hsel, selectHost, hc, decode_cmd]
  · simp [step, hsel, selectHost, hc]
  · simp [step, hsel, selectHost, hc, hb]
  · simp [step, hsel, selectHost, hc, hb]

end Sys2Proof.Machine
end

section
/-! PROOFS. The peripheral primitives (R100 to R109) and the condition generator (R110, R111). -/

namespace Sys2Proof.Machine

/-! ## The three pin registers, each with its frame -/

/-- A write of `OE` changes the direction and is recorded with the pulls it leaves (R112). -/
theorem setOe_eq (b : Bool) (s : State) :
    setOe b s = { s with oe := b, events := s.events ++ [.pins ⟨b && !s.sdaq, !s.sclq⟩] } := rfl

/-- A write of `SDAQ` changes the data latch and is recorded with the pulls it leaves (R112). -/
theorem setSdaq_eq (b : Bool) (s : State) :
    setSdaq b s = { s with sdaq := b, events := s.events ++ [.pins ⟨s.oe && !b, !s.sclq⟩] } := rfl

/-- A write of `SCLQ` changes the clock latch and is recorded with the pulls it leaves (R112). -/
theorem setSclq_eq (b : Bool) (s : State) :
    setSclq b s = { s with sclq := b, events := s.events ++ [.pins ⟨s.oe && !s.sdaq, !b⟩] } := rfl

/-! ## The primitives -/

/-- Settles O5: both primitives are a write of `OE`. -/
theorem directionPrimitives : Obligations.DirectionPrimitives := by
  unfold Obligations.DirectionPrimitives
  exact fun s => ⟨congrArg Host.Outcome.next (setOe_eq true s), congrArg Host.Outcome.next (setOe_eq false s)⟩

/-- Settles O6, by whether the latch is transparent. -/
theorem loadShiftRegisterFollowsLatch : Obligations.LoadShiftRegisterFollowsLatch := by
  unfold Obligations.LoadShiftRegisterFollowsLatch
  exact fun s v =>
    ⟨fun hclosed => congrArg Host.Outcome.next (loadSr_closed hclosed v),
      fun hopen => congrArg Host.Outcome.next (loadSr_open hopen v)⟩

/-- Settles O7: the mask takes the count from the operand and the flag bits from the register. -/
theorem loadCountKeepsFlagBits : Obligations.LoadCountKeepsFlagBits := by
  unfold Obligations.LoadCountKeepsFlagBits
  exact fun s n => ⟨loadCnt n s, rfl, count_withCount s.cntreg n, flags_withCount s.cntreg n, rfl⟩

/-- Settles O8: the meaning of `READ_RX` appends to the record of results and does nothing else. -/
theorem readReceivedBitsHasNoSideEffect : Obligations.ReadReceivedBitsHasNoSideEffect := by
  unfold Obligations.ReadReceivedBitsHasNoSideEffect
  exact fun _ => rfl

/-- Settles O9: the meaning of each primitive is a write of `IFG`. -/
theorem completionFlagPrimitives : Obligations.CompletionFlagPrimitives := by
  unfold Obligations.CompletionFlagPrimitives
  exact fun _ => ⟨rfl, rfl⟩

/-- Settles O10: opening the latch is a write of `SDAQ` after that of `GE`, closing it is the write of `GE` alone, and
releasing the clock is a write of `SCLQ`. -/
theorem latchAndClockPrimitives : Obligations.LatchAndClockPrimitives := by
  unfold Obligations.LatchAndClockPrimitives
  exact fun s =>
    ⟨congrArg Host.Outcome.next (setSdaq_eq (s.sr.getLsbD 7) { s with ge := true }), rfl,
      congrArg Host.Outcome.next (setSclq_eq true s)⟩

/-! ## The condition generator -/

/-- With both latches released neither line is pulled, whichever way the direction points (R112). -/
theorem level_eq_released {s : State} (hclock : s.sclq = true) (hdata : s.sdaq = true) : level s = released := by
  simp [level, sdaPull, sclPull, released, hclock, hdata]

/-- From released lines SDA falls once under a high clock, and `S` follows on that fall. -/
theorem framing_start :
    Framing.run ⟨released, none⟩ [.pins ⟨false, false⟩, .pins ⟨true, false⟩, .sym .start] =
      some ⟨⟨true, false⟩, none⟩ := rfl

/-- From a clock held low, whatever SDA was: SDA is pulled under the low clock, which makes no condition, the clock is
released, SDA rises once, and `P` follows on that rise. -/
theorem framing_stop {l : Level} (hclock : l.sclPull = true) :
    Framing.run ⟨l, none⟩
        [.pins ⟨true, true⟩, .pins ⟨true, false⟩, .pins ⟨false, false⟩, .sym .stop, .pins ⟨false, false⟩] =
      some ⟨⟨false, false⟩, none⟩ := by
  have hquiet : Framing.next ⟨l, none⟩ (.pins ⟨true, true⟩) = some ⟨⟨true, true⟩, none⟩ := by
    rw [Framing.next, condition_eq_none_of_clock_low (.inl hclock)]
  rw [Framing.run, hquiet]
  rfl

/-- Settles O11: the start condition made with the latch closed, from lines that the precondition leaves released. -/
theorem startConditionGenerated : Obligations.StartConditionGenerated := by
  unfold Obligations.StartConditionGenerated
  intro s hsclq hsdaq hge
  constructor
  · simp [exec, execStartGen, startGen_eq hge, hsclq, hsdaq]
  · rw [level_eq_released hsclq hsdaq]
    exact framing_start

/-- Settles O12: the stop condition made with the latch closed, from a clock that the precondition holds low. -/
theorem stopConditionGenerated : Obligations.StopConditionGenerated := by
  unfold Obligations.StopConditionGenerated
  intro s hoe hsclq hge
  constructor
  · simp [exec, execStopGen, stopGen_eq hge, hoe, hsclq]
  · exact framing_stop ((sclPull_iff s).2 hsclq)

end Sys2Proof.Machine
end

section
/-! PROOFS. The bit steps of the sequencer (R120 to R126), and the transmit group of eight (R124). -/

namespace Sys2Proof.Machine

/-! ## When a bit step is taken -/

/-- The sequencer is enabled exactly where no completion is pending and a bit is due (R120). -/
theorem seqEnabled_iff {s : State} : seqEnabled s = true ↔ s.ifg = false ∧ cnt s ≠ 0#5 := by
  simp [seqEnabled]

/-- Enabled, and with the clock rising, the bit step of the direction in `OE` clocks a bit (R121, R122). -/
theorem seqStep_of_clock_rises {out : Bool} {s : State} (sym : Bool → Bool → Sym) (he : seqEnabled s = true)
    (ho : s.oe = out) (hrise : (answer s).clockRises = true) :
    seqStep out sym s = .next (clockBit sym (answer s).tSda (afterAnswer s)) := by
  simp [seqStep, he, ho, hrise]

/-- Where the clock is withheld the answer is used and no bit is clocked (R125). -/
theorem seqStep_of_clock_withheld {out : Bool} {s : State} (sym : Bool → Bool → Sym) (he : seqEnabled s = true)
    (ho : s.oe = out) (hheld : (answer s).clockRises = false) : seqStep out sym s = .next (afterAnswer s) := by
  simp [seqStep, he, ho, hheld]

/-- Outside the enabling condition, and in the other direction, a bit step changes nothing (R120). -/
theorem seqStep_of_not_enabled {out : Bool} {s : State} (sym : Bool → Bool → Sym)
    (h : s.ifg = true ∨ cnt s = 0#5 ∨ s.oe = !out) : seqStep out sym s = .next s := by
  rcases h with h | h | h <;> simp [seqStep, seqEnabled, h]

/-- Settles O26: each of the three conditions closes the guard of both bit operations. -/
theorem bitStepNeedsEnabledSequencer : Obligations.BitStepNeedsEnabledSequencer := by
  unfold Obligations.BitStepNeedsEnabledSequencer
  exact fun _ => ⟨seqStep_of_not_enabled (out := true) _, seqStep_of_not_enabled (out := false) _⟩

/-- Settles O24: the answer is the one lined up, or the free one, and using it is all that happens. -/
theorem withheldClockChangesNothing : Obligations.WithheldClockChangesNothing := by
  unfold Obligations.WithheldClockChangesNothing
  intro i s hdir he
  have hheld : (answer s).clockRises = false → exec i s = .next (afterAnswer s) := by
    rcases hdir with ⟨rfl, ho⟩ | ⟨rfl, ho⟩ <;> exact seqStep_of_clock_withheld _ he ho
  constructor
  · intro a rest hline hclock
    obtain ⟨hanswer, hused⟩ := answer_lined_up hline
    rw [hheld (hanswer ▸ hclock), hused]
  · intro hnone
    cases hscl : Config.targetScl s.draws
    · have hused : afterAnswer s = { s with draws := s.draws + 1 } := by simp [afterAnswer, hnone]
      exact .inr (hused ▸ hheld (by simp [answer, hnone, hscl]))
    · exact .inl rfl

/-! ## One bit -/

/-- The count that a step takes to 0 is 1. -/
theorem count_sub_one_eq_zero_iff {c : BitVec 5} : c - 1#5 = 0#5 ↔ c = 1#5 := by
  rw [BitVec.sub_eq_iff_eq_add, BitVec.zero_add]

/-- A bit step that is taken, in either direction: the sample is the level on the line, which the block pulls low only
where it drives a 0 (R121, R122, R126). -/
theorem seqStep_bit {out : Bool} {s : State} (sym : Bool → Bool → Sym) (he : seqEnabled s = true) (ho : s.oe = out)
    (hrise : (answer s).clockRises = true) :
    let smp := !(out && !s.sr.getLsbD 7) && (answer s).tSda
    ∃ t, seqStep out sym s = .next t ∧ cnt t = cnt s - 1#5 ∧ flagBits t = flagBits s ∧ t.sr.getLsbD 0 = smp ∧
      (∀ i, i < 7 → t.sr.getLsbD (i + 1) = s.sr.getLsbD i) ∧
      t = { s with
        sclq := false, sdaq := s.sr.getLsbD 7, sr := t.sr, cntreg := t.cntreg, ifg := cnt s == 1#5,
        oracle := (afterAnswer s).oracle, draws := (afterAnswer s).draws,
        events := s.events ++
          [.pins ⟨out && !s.sdaq, true⟩, .pins ⟨out && !s.sr.getLsbD 7, true⟩,
            .pins ⟨out && !s.sr.getLsbD 7, false⟩, .sym (sym (s.sr.getLsbD 7) smp), .pins ⟨out && !s.sr.getLsbD 7, true⟩] } := by
  intro smp
  subst ho
  obtain ⟨hifg, -⟩ := seqEnabled_iff.1 he
  have hlast : (if cnt s - 1#5 = 0#5 then true else s.ifg) = (cnt s == 1#5) := by
    simp only [count_sub_one_eq_zero_iff, hifg]
    by_cases h : cnt s = 1#5 <;> simp [h]
  refine ⟨_, seqStep_of_clock_rises sym he rfl hrise, ?_⟩
  rw [clockBit_eq, afterAnswer_frame]
  exact ⟨count_decCount _, flags_decCount _, shiftIn_low _ _, shiftIn_up _ _, by rw [← hlast]; rfl⟩

/-- Settles O22: driving, the block makes the sample its own bit and the target's level. -/
theorem transmitBitStep : Obligations.TransmitBitStep := by
  unfold Obligations.TransmitBitStep
  intro s he ho hrise
  simpa [exec, execTxBit] using seqStep_bit (fun driven _ => .tx driven) he ho hrise

/-- Settles O23: not driving, the block pulls nothing and the sample is the target's level. -/
theorem receiveBitStep : Obligations.ReceiveBitStep := by
  unfold Obligations.ReceiveBitStep
  intro s he ho hrise
  simpa [exec, execRxBit] using seqStep_bit (fun _ sampled => .rx sampled) he ho hrise

/-- From no completion pending, a bit step leaves one pending exactly where it took the count from 1 to 0 (R123). -/
theorem seqStep_ifg_iff {out : Bool} {sym : Bool → Bool → Sym} {s t : State} (hifg : s.ifg = false)
    (h : seqStep out sym s = .next t) : t.ifg = true ↔ cnt s = 1#5 ∧ cnt t = 0#5 := by
  have hidle : ∀ u : State, u.ifg = s.ifg → cnt u = cnt s → (u.ifg = true ↔ cnt s = 1#5 ∧ cnt u = 0#5) := by
    intro u hi hc
    rw [hi, hc, hifg]
    simp +contextual
  obtain ⟨he, ho, hrise, -⟩ | ⟨-, -, -, hheld⟩ | ⟨-, hoff⟩ := seqStep_cases out sym s
  · obtain ⟨u, hu, hcnt, -, -, -, hframe⟩ := seqStep_bit sym he ho hrise
    obtain rfl : u = t := by simpa [hu] using h
    rw [hcnt, count_sub_one_eq_zero_iff, and_self, hframe]
    exact beq_iff_eq
  · cases hheld.symm.trans h
    rw [afterAnswer_frame]
    exact hidle _ rfl rfl
  · cases hoff.symm.trans h
    exact hidle _ rfl rfl

/-- A kick-off that completes leaves the completion flag raised (R140). -/
theorem ifg_of_kickOff {a : Addr} {len : Nat} {s t : State} (h : kickOff a len s = .next t) : t.ifg = true := by
  rw [kickOff_eq] at h
  split_ifs at h
  cases h
  rfl

/-- Settles O27: the two bit operations are one bit step, and the kick-off writes the flag. -/
theorem lastBitRaisesCompletion : Obligations.LastBitRaisesCompletion := by
  unfold Obligations.LastBitRaisesCompletion
  refine ⟨?_, fun _ _ _ _ => ifg_of_kickOff⟩
  rintro i s t (rfl | rfl) h hifg <;> exact seqStep_ifg_iff hifg h

/-! ## One transmit step with an answer lined up -/

/-- A transmit step that uses up the answer lined up, the target's level in it being `tSda`. -/
def sendBit (tSda : Bool) (s : State) : State :=
  clockBit (fun driven _ => .tx driven) tSda { s with oracle := s.oracle.tail }

/-- `SR` after a transmit step: the bit driven comes in again at bit 0 where the target releases the line (R126). -/
def reload (sr : Byte) (tSda : Bool) : Byte := shiftIn sr (sr.getLsbD 7 && tSda)

/-- A transmit step changes the registers of the bit step, the oracle and the record, nothing else. -/
theorem sendBit_frame (tSda : Bool) (s : State) :
    sendBit tSda s = { s with
      sr := (sendBit tSda s).sr, cntreg := decCount s.cntreg, sdaq := s.sr.getLsbD 7, sclq := false,
      ifg := if cnt s - 1#5 = 0#5 then true else s.ifg, oracle := s.oracle.tail,
      events := (sendBit tSda s).events } := by
  rw [sendBit, clockBit_eq]
  rfl

theorem oe_sendBit (tSda : Bool) (s : State) : (sendBit tSda s).oe = s.oe := by rw [sendBit_frame]

theorem oracle_sendBit (tSda : Bool) (s : State) : (sendBit tSda s).oracle = s.oracle.tail := by rw [sendBit_frame]

theorem cnt_sendBit (tSda : Bool) (s : State) : cnt (sendBit tSda s) = cnt s - 1#5 := by
  rw [sendBit_frame]
  exact count_decCount _

theorem flagBits_sendBit (tSda : Bool) (s : State) : flagBits (sendBit tSda s) = flagBits s := by
  rw [sendBit_frame]
  exact flags_decCount _

theorem sr_sendBit {s : State} (ho : s.oe = true) (tSda : Bool) : (sendBit tSda s).sr = reload s.sr tSda := by
  rw [sendBit, clockBit_eq, reload]
  simp [ho]

theorem wire_sendBit (tSda : Bool) (s : State) : wire (sendBit tSda s) = wire s ++ [.tx (s.sr.getLsbD 7)] :=
  wire_clockBit _ _ _

/-- At least `n` bits of a transmit group are to come, and nothing but the sequencer is due. -/
structure Transmitting (n : Nat) (s : State) : Prop where
  alone : BlockAlone s
  out : s.oe = true
  count : n ≤ (cnt s).toNat
  pending : n ≠ 0 → s.ifg = false

/-- After a transmit step one bit fewer is to come. -/
theorem Transmitting.sendBit {n : Nat} {s : State} (h : Transmitting (n + 1) s) (tSda : Bool) :
    Transmitting n (sendBit tSda s) := by
  have hcnt := h.count
  have hdown : n ≤ (cnt s - 1#5).toNat := by bv_omega
  refine ⟨?_, (oe_sendBit tSda s).trans h.out, cnt_sendBit tSda s ▸ hdown, fun hn => ?_⟩
  · rw [sendBit_frame]
    exact h.alone
  · have hmore : cnt s - 1#5 ≠ 0#5 := by bv_omega
    rw [sendBit_frame]
    exact (if_neg hmore).trans (h.pending n.succ_ne_zero)

/-- In a transmit group a step with a clocked answer lined up is that transmit step (R91, R120). -/
theorem Transmitting.step_eq {n : Nat} {s : State} {a : Answer} {rest : List Answer} (h : Transmitting (n + 1) s)
    (hline : s.oracle = a :: rest) (hrise : a.clockRises = true) : step s = .next (Machine.sendBit a.tSda s) := by
  have hcnt : cnt s ≠ 0#5 := by have := h.count; bv_omega
  have hifg := h.pending n.succ_ne_zero
  obtain ⟨hanswer, hused⟩ := answer_lined_up hline
  have hbit : exec .txBit s = .next (Machine.sendBit a.tSda s) := by
    rw [Machine.sendBit, hline, List.tail_cons, ← hused, ← hanswer]
    exact seqStep_of_clock_rises _ (seqEnabled_iff.2 ⟨hifg, hcnt⟩) h.out (hanswer ▸ hrise)
  simpa [step_blockAlone h.alone, hifg, hcnt, h.out] using hbit

/-! ## A run of transmit steps -/

/-- Transmit steps with one answer after the other. -/
def sendBits (o : List Answer) (s : State) : State := o.foldl (fun s a => sendBit a.tSda s) s

/-- `SR` after transmit steps. -/
def reloads (o : List Answer) (sr : Byte) : Byte := o.foldl (fun sr a => reload sr a.tSda) sr

/-- What transmit steps put on the wire, from the byte in `SR` (R121). -/
def sentBits : List Answer → Byte → List Sym
  | [], _ => []
  | a :: rest, sr => .tx (sr.getLsbD 7) :: sentBits rest (reload sr a.tSda)

theorem sendBits_cons (a : Answer) (o : List Answer) (s : State) :
    sendBits (a :: o) s = sendBits o (sendBit a.tSda s) := rfl

/-- A run of the block in a transmit group with clocked answers lined up is a run of transmit steps. -/
theorem Transmitting.runFor_eq {n : Nat} {s : State} (h : Transmitting n s) (hc : clocked n s.oracle) :
    runFor n s = .next (sendBits (s.oracle.take n) s) := by
  induction n generalizing s with
  | zero => rfl
  | succ n ih =>
    rcases hline : s.oracle with _ | ⟨a, rest⟩ <;> rw [hline] at hc
    · exact hc.elim
    · obtain ⟨hrise, hrest⟩ := hc
      have horacle : (Machine.sendBit a.tSda s).oracle = rest := by rw [oracle_sendBit, hline, List.tail_cons]
      rw [runFor, h.step_eq hline hrise, List.take_succ_cons, sendBits_cons]
      simpa only [horacle] using ih (h.sendBit a.tSda) (horacle ▸ hrest)

/-- Transmit steps change the registers of the bit step, the oracle and the record, nothing else. -/
theorem sendBits_frame (o : List Answer) (s : State) :
    sendBits o s = { s with
      sr := (sendBits o s).sr, cntreg := (sendBits o s).cntreg, sdaq := (sendBits o s).sdaq,
      sclq := (sendBits o s).sclq, ifg := (sendBits o s).ifg, oracle := (sendBits o s).oracle,
      events := (sendBits o s).events } := by
  induction o generalizing s with
  | nil => rfl
  | cons a o ih =>
    have hrest := ih (sendBit a.tSda s)
    rw [← sendBits_cons] at hrest
    exact hrest.trans (by rw [sendBit_frame a.tSda s])

theorem oracle_sendBits (o : List Answer) (s : State) : (sendBits o s).oracle = s.oracle.drop o.length := by
  induction o generalizing s with
  | nil => rfl
  | cons a o ih => rw [sendBits_cons, ih, oracle_sendBit, List.drop_tail, List.length_cons]

theorem cnt_sendBits (o : List Answer) (s : State) : cnt (sendBits o s) = cnt s - BitVec.ofNat 5 o.length := by
  induction o generalizing s with
  | nil => exact (BitVec.sub_zero _).symm
  | cons a o ih =>
    rw [sendBits_cons, ih, cnt_sendBit, List.length_cons]
    bv_omega

theorem flagBits_sendBits (o : List Answer) (s : State) : flagBits (sendBits o s) = flagBits s := by
  induction o generalizing s with
  | nil => rfl
  | cons a o ih =>
    rw [sendBits_cons, ih, flagBits_sendBit]

theorem sr_sendBits (o : List Answer) {s : State} (ho : s.oe = true) : (sendBits o s).sr = reloads o s.sr := by
  induction o generalizing s with
  | nil => rfl
  | cons a o ih =>
    rw [sendBits_cons, ih ((oe_sendBit a.tSda s).trans ho), sr_sendBit ho]
    rfl

theorem wire_sendBits (o : List Answer) {s : State} (ho : s.oe = true) :
    wire (sendBits o s) = wire s ++ sentBits o s.sr := by
  induction o generalizing s with
  | nil => exact (List.append_nil _).symm
  | cons a o ih =>
    rw [sendBits_cons, ih ((oe_sendBit a.tSda s).trans ho), wire_sendBit, sr_sendBit ho, List.append_assoc]
    rfl

/-- The last of some transmit steps leaves the clock low, and the completion pending where the count has come to 0
(R121, R123). -/
theorem sendBits_last {o : List Answer} (hne : o ≠ []) (s : State) :
    (sendBits o s).sclq = false ∧ (cnt (sendBits o s) = 0#5 → (sendBits o s).ifg = true) := by
  obtain rfl | ⟨o, a, rfl⟩ := o.eq_nil_or_concat
  · exact absurd rfl hne
  have hlast : sendBits (o.concat a) s = sendBit a.tSda (sendBits o s) := by simp [sendBits]
  rw [hlast, cnt_sendBit, sendBit_frame]
  exact ⟨rfl, fun hdone => if_pos hdone⟩

/-! ## A group of eight -/

/-- Eight transmit steps put the byte on the wire: a bit sent moves the next one up to bit 7 (R63, R126). -/
theorem sentBits_eight {o : List Answer} (h : o.length = 8) (sr : Byte) : sentBits o sr = byteBits sr := by
  match o, h with
  | [_, _, _, _, _, _, _, _], _ => simp only [sentBits, byteBits, reload, shiftIn_up, Nat.reduceLT]

/-- Eight bits that come in again as they go out leave the byte as it was. -/
theorem reloads_eight {o : List Answer} (h : o.length = 8) (hfree : ∀ a ∈ o, a.tSda = true) (sr : Byte) :
    reloads o sr = sr := by
  have hall : o.map Answer.tSda = List.replicate 8 true := by
    rw [List.eq_replicate_iff]
    simpa [h] using hfree
  have hround : ∀ b : Byte, (List.replicate 8 true).foldl reload b = b := by decide
  have hmap : reloads o sr = (o.map Answer.tSda).foldl reload sr := by rw [reloads, List.foldl_map]
  rw [hmap, hall, hround]

/-- As many answers are lined up as are clocked. -/
theorem length_of_clocked {n : Nat} {o : List Answer} (h : clocked n o) : n ≤ o.length := by
  induction n generalizing o with
  | zero => exact Nat.zero_le _
  | succ n ih =>
    cases o with
    | nil => exact h.elim
    | cons a o => exact Nat.succ_le_succ (ih h.2)

/-- Settles O28: the run is eight transmit steps with the answers lined up. -/
theorem transmitGroupSendsByte : Obligations.TransmitGroupSendsByte := by
  unfold Obligations.TransmitGroupSendsByte
  intro s halone hifg hcnt ho hclocked
  have hgroup : Transmitting 8 s := ⟨halone, ho, by simp [hcnt], fun _ => hifg⟩
  have height : (s.oracle.take 8).length = 8 := List.length_take_of_le (length_of_clocked hclocked)
  have hdone : cnt (sendBits (s.oracle.take 8) s) = 0#5 := by
    rw [cnt_sendBits, height, hcnt]
    rfl
  obtain ⟨hlow, hraised⟩ := sendBits_last (List.ne_nil_of_length_eq_add_one height) s
  refine ⟨_, hgroup.runFor_eq hclocked, hraised hdone, hdone, flagBits_sendBits _ s, hlow, ?_, ?_, fun hfree => ?_,
    sendBits_frame _ s⟩
  · rw [wire_sendBits _ ho, sentBits_eight height]
  · rw [oracle_sendBits, height]
  · rw [sr_sendBits _ ho, reloads_eight height hfree]

end Sys2Proof.Machine
end

section
/-! PROOFS. The host's steps: the kick-off and its duties, `WAIT`, `READ_ERR` and the change of the buffer (R140 to
R145), and the step that ends a transaction (R143, R167). -/

namespace Sys2Proof.Machine

/-! ## The kick-off -/

/-- A kick-off that keeps the duties of R141 loads the descriptor and raises the completion (R140). -/
theorem kickOff_of_duties (a : Addr) {len : Nat} {s : State} (hb : s.busy = false) (h0 : len ≠ 0)
    (hl : len < 2 ^ s.lenw) :
    kickOff a len s = .next { s with
      addrByte := frameAddress a, len := len, cursor := 0, phase := 0b000#3, ifg := true, busy := true } := by
  rw [kickOff_eq, if_neg (Nat.not_le.2 hl), hb, if_neg Bool.false_ne_true, if_neg h0]

/-- Settles O29: the descriptor's address byte is the framed address. -/
theorem kickOffLoadsDescriptor : Obligations.KickOffLoadsDescriptor := by
  unfold Obligations.KickOffLoadsDescriptor
  intro a len s hb h0 hl
  exact ⟨_, kickOff_of_duties a hb h0 hl, frameAddress_address a, frameAddress_direction a, rfl⟩

/-! ## The duties of a command -/

/-- A length above `MAXLEN` cannot be presented (R141 (d)). -/
theorem kickOff_too_long (a : Addr) {len : Nat} {s : State} (hw : 2 ^ s.lenw ≤ len) :
    kickOff a len s = .refused .widerThanPort := by
  rw [kickOff_eq, if_pos hw]

/-- A command in flight is a fault (R141 (a)). -/
theorem kickOff_in_flight (a : Addr) {len : Nat} {s : State} (hl : len < 2 ^ s.lenw) (hb : s.busy = true) :
    kickOff a len s = .fault .commandInFlight := by
  rw [kickOff_eq, if_neg (Nat.not_le.2 hl), if_pos hb]

/-- A command of length 0 is a fault (R141 (b)); any port carries the length 0. -/
theorem kickOff_zero (a : Addr) {s : State} (hb : s.busy = false) : kickOff a 0 s = .fault .zeroLength := by
  rw [kickOff_eq, if_neg (Nat.not_le.2 (Nat.two_pow_pos _)), hb, if_neg Bool.false_ne_true, if_pos rfl]

/-- Both commands stop where their kick-off does (R93). -/
theorem exec_command_of_kickOff {i : Instr} {a : Addr} {len : Nat} {s : State}
    (hi : i = .wt a len ∨ i = .writeTransaction a len) :
    (∀ r, kickOff a len s = .fault r → exec i s = .fault r) ∧
      (∀ r, kickOff a len s = .refused r → exec i s = .refused r) := by
  rcases hi with rfl | rfl
  · exact ⟨fun _ h => h, fun _ h => h⟩
  · constructor <;> intro r h <;> simp [exec, execWriteTransaction, h]

/-- Settles O30, by what the kick-off of the command does. -/
theorem commandDutiesFault : Obligations.CommandDutiesFault := by
  unfold Obligations.CommandDutiesFault
  intro i a len s hi
  obtain ⟨hfault, hrefused⟩ := exec_command_of_kickOff (s := s) hi
  refine ⟨fun hw => hrefused _ (kickOff_too_long a hw), fun hl hb => hfault _ (kickOff_in_flight a hl hb), ?_⟩
  rintro hb rfl
  exact hfault _ (kickOff_zero a hb)

/-! ## Waiting, and reading the indicator -/

/-- A host that waits with no transaction in flight goes on at once (R142). -/
theorem waitFor_free {s : State} (h : s.busy = false) : waitFor s = s := by simp [waitFor, h]

/-- A host that waits in flight has its `WAIT` next (R142). -/
theorem waitFor_in_flight {s : State} (h : s.busy = true) : waitFor s = { s with script := .wait :: s.script } := by
  simp [waitFor, h]

/-- Settles O32: in flight a host with `WAIT` next is quiet, and a quiet host leaves the choice to the block. -/
theorem waitHoldsWhileBusy : Obligations.WaitHoldsWhileBusy := by
  unfold Obligations.WaitHoldsWhileBusy
  refine ⟨fun s hb => congrArg Host.Outcome.next (waitFor_free hb),
    fun s hb => congrArg Host.Outcome.next (waitFor_in_flight hb), fun s rest hb hc hr hs => ?_⟩
  have hquiet : hostQuiet s = true := by simp [hostQuiet, hc, hb]
  simp [select, hr, hs, selectHost_quiet hquiet]

/-- Settles O33: the meaning of `READ_ERR` appends to the record of results and does nothing else. -/
theorem readErrGivesIndicator : Obligations.ReadErrGivesIndicator := by
  unfold Obligations.ReadErrGivesIndicator
  exact fun _ => rfl

/-! ## The change of the host's buffer -/

/-- Every outcome of a change of the buffer. -/
theorem hostPoke_eq (i : Nat) (b : Byte) (s : State) :
    hostPoke i b s =
      if 2 ^ s.lenw ≤ i then .refused .widerThanPort
      else if s.busy then .fault .payloadWriteInFlight
      else .next { s with payload := Memory.write s.payload i b } := rfl

/-- A change of the buffer that is next in the script is what the step does. -/
theorem step_poke {i : Nat} {b : Byte} {rest : List HostOp} {s : State} (hr : s.rst = false) (hp : s.pins = [])
    (hs : s.strobe = none) (hc : s.script = .poke i b :: rest) : step s = hostPoke i b { s with script := rest } := by
  simp [step, select_eq_selectHost hr hp hs, selectHost, hc]

/-- Settles O34, by every outcome of a change of the buffer; the bytes read after it are those of a write. -/
theorem hostChangesBufferOnlyWhenFree : Obligations.HostChangesBufferOnlyWhenFree := by
  unfold Obligations.HostChangesBufferOnlyWhenFree
  intro i b rest s hr hp hs hc
  rw [step_poke hr hp hs hc, hostPoke_eq]
  refine ⟨fun hw => if_pos hw, fun hi hb => ?_, fun hi hb hwf => ?_⟩
  · rw [if_neg (Nat.not_le.2 hi), if_pos hb]
  · rw [if_neg (Nat.not_le.2 hi), if_neg (by simp [hb])]
    refine ⟨_, rfl, Memory.wf_write hi hwf, fun x => ?_, rfl⟩
    simpa only [eq_comm] using Memory.read_write i b x hwf

/-! ## The end of a transaction -/

/-- A command completes only with no transaction in flight (R141 (a)). -/
theorem free_of_command {i : Instr} {a : Addr} {len : Nat} {s t : State}
    (hi : i = .wt a len ∨ i = .writeTransaction a len) (h : exec i s = .next t) : s.busy = false := by
  obtain ⟨hwide, hflight, -⟩ := commandDutiesFault i a len s hi
  rw [Bool.eq_false_iff]
  intro hb
  obtain hl | hw := Nat.lt_or_ge len (2 ^ s.lenw)
  · cases h.symm.trans (hflight hl hb)
  · cases h.symm.trans (hwide hw)

/-- A change of the buffer completes only with no transaction in flight (R65). -/
theorem free_of_hostPoke {i : Nat} {b : Byte} {s t : State} (h : hostPoke i b s = .next t) : s.busy = false := by
  rw [hostPoke_eq] at h
  split_ifs at h with hw hb
  exact Bool.eq_false_iff.2 hb

/-- What the block's own step can do: an invocation, a bit step, or nothing (R120, R150). -/
abbrev BlockMoves (u t : State) : Prop :=
  (u.ifg = true ∧ u.gie = true ∧ exec (decodePhase u.phase (nack u) (last u)) u = .next t) ∨
    (u.ifg = false ∧ cnt u ≠ 0#5 ∧ exec (if u.oe then .txBit else .rxBit) u = .next t) ∨ t = u

/-- A step in flight, reset and a strobe apart, is the block's own: the host's statements complete only with none in
flight (R33, R65, R141). -/
theorem block_of_step_in_flight {s t : State} (h : step s = .next t) (hr : (samplePins s).rst = false)
    (hs : (samplePins s).strobe = none) (hb : (samplePins s).busy = true) :
    BlockMoves (samplePins s) t := by
  obtain ⟨hreset, -⟩ | ⟨-, k, i, hstrobe, -⟩ | ⟨-, -, rest, hhost⟩ | ⟨-, -, hblock⟩ := step_cases h
  · simp [hr] at hreset
  · simp [hs] at hstrobe
  · have hfree : ({ samplePins s with script := rest } : State).busy = false := by
      obtain ⟨a, len, -, hwt⟩ | ⟨a, len, -, hwt⟩ | ⟨i, b, -, hpoke⟩ | ⟨hfree, -⟩ | ⟨hfree, -⟩ := hhost
      · exact free_of_command (.inl rfl) hwt
      · exact free_of_command (.inr rfl) hwt
      · exact free_of_hostPoke hpoke
      · exact hfree
      · exact hfree
    exact absurd hb (Bool.eq_false_iff.1 hfree)
  · exact hblock

/-- What the block leaves behind where its step ends the transaction: `P`, one wake, the last acknowledge bit in the
indicator, and after an acknowledge every payload byte loaded (R159, R167, R181). -/
structure EndedBy (u t : State) : Prop where
  wire : wire t = wire u ++ [.stop]
  wakes : t.wakes = u.wakes + 1
  err : t.err = nack u
  sent : t.err = false → t.cursor = t.len

/-- Of the things that the block can do only the stop actions take `BUSY` to 0. -/
theorem BlockInv.endedBy_of_block {u t : State} (hI : BlockInv u) (hb : u.busy = true) (ht : t.busy = false)
    (h : BlockMoves u t) : EndedBy u t := by
  have hanswer : (Machine.afterAnswer u).busy = u.busy := by rw [afterAnswer_frame]
  obtain rfl | hstart | hslot | hload | hstop | hwithheld | hbit := block_cases hI h
  · simp [hb] at ht
  · obtain ⟨-, -, rfl⟩ := hstart
    simp [hb] at ht
  · obtain ⟨-, -, rfl⟩ := hslot
    simp [hb] at ht
  · obtain ⟨-, -, -, -, rfl⟩ := hload
    simp [hb] at ht
  · obtain ⟨-, -, hend, rfl⟩ := hstop
    exact ⟨wire_eq_concat rfl rfl, by simp [hb], rfl, fun hn => (hend hn).2⟩
  · obtain ⟨-, -, rfl⟩ := hwithheld
    simp [hanswer, hb] at ht
  · obtain ⟨-, -, rfl⟩ := hbit
    simp [clockBit_eq, hanswer, hb] at ht

/-- Settles O57: the step is the block's own and leaves `P` and the wake behind; the state it leads to is sound, and a
sound state with none in flight is idle. -/
theorem endOfTransactionLeavesIdle : Obligations.EndOfTransactionLeavesIdle := by
  unfold Obligations.EndOfTransactionLeavesIdle
  intro s t hI h hb ht hr
  obtain ⟨⟨-, -, hidle, -⟩, -⟩ := stepKeepsBoundaryInvariants s t hI h
  obtain ⟨hphase, hifg, hcnt, hpins⟩ := hidle ht
  have hIu := hI.samplePins
  have hbu : (samplePins s).busy = true := by
    rw [samplePins_frame]
    exact hb
  have hblock := block_of_step_in_flight h hr (blockInv_iff.1 hIu).1.strobe hbu
  obtain ⟨hwire, hwakes, herr, hsent⟩ := hIu.endedBy_of_block hbu ht hblock
  rw [samplePins_frame] at hwire hwakes herr
  exact ⟨⟨⟨hifg, hcnt⟩, ht⟩, hphase, hpins, hwire, hwakes, herr, hsent⟩

end Sys2Proof.Machine
end

section
/-! PROOFS. The controller's phase operations (R150 to R161): the outcome of each, with its frame. -/

namespace Sys2Proof.Machine

/-! ## The stop actions by themselves -/

/-- Settles O13: the stop actions made with the latch closed, from a clock that the precondition holds low under a driven
data line. -/
theorem stopActionsEndTransaction : Obligations.StopActionsEndTransaction := by
  unfold Obligations.StopActionsEndTransaction
  intro s hoe hsclq hge
  simp [exec, execStopActions, stopActions_eq hge, hoe, hsclq]

/-! ## Invocations -/

/-- Settles O20: each of the eight is an invocation, and the closed guard leaves the state as it is. -/
theorem phaseNeedsEnabledCompletion : Obligations.PhaseNeedsEnabledCompletion := by
  unfold Obligations.PhaseNeedsEnabledCompletion
  intro i s hi hoff
  fin_cases hi <;>
    dsimp only [exec, execPhStart, execPhAddrAck, execPhAddrCheckAck, execPhAddrCheckNack, execPhDataAck,
      execPhDataCheckNext, execPhDataCheckLast, execPhDataCheckNack] <;>
    exact invoke_disabled _ hoff

/-- An enabled invocation of an operation that completes clears the flag at its end (R152). -/
theorem invoke_completes {op : State → Result} {s t : State} (hi : s.ifg = true) (hg : s.gie = true)
    (h : op s = .next t) : invoke op s = .next (clearIfg t) := by
  rw [invoke_enabled op hi hg, h]
  rfl

/-- `PH.START`, enabled and with the latch closed: the start condition, and the address byte loaded behind it (R153). -/
theorem exec_phStart {s : State} (hi : s.ifg = true) (hg : s.gie = true) (hge : s.ge = false) :
    exec .phStart s =
      .next { s with
        sr := s.addrByte, oe := true, ge := false, sdaq := false, cntreg := withCount s.cntreg 8#8, phase := 0b001#3,
        ifg := false, events := s.events ++ [.pins ⟨!s.sdaq, !s.sclq⟩, .pins ⟨true, !s.sclq⟩, .sym .start] } := by
  dsimp only [exec, execPhStart]
  rw [invoke_enabled _ hi hg, startGen_eq hge, loadSr_closed rfl]
  rfl

/-- Settles O14: the count programmed is 8, under the flag bits as they were. -/
theorem startPhaseSendsAddressByte : Obligations.StartPhaseSendsAddressByte := by
  unfold Obligations.StartPhaseSendsAddressByte
  exact fun s hi hg hge =>
    ⟨_, exec_phStart hi hg hge, count_withCount s.cntreg 8#8, flags_withCount s.cntreg 8#8, rfl⟩

/-- An invocation that opens an acknowledge slot (R154, R156). -/
theorem invoke_openAckSlot (next : PhaseCode) {s : State} (hi : s.ifg = true) (hg : s.gie = true) :
    ∃ t, invoke (fun t => .next (openAckSlot next t)) s = .next t ∧ cnt t = 1#5 ∧ flagBits t = flagBits s ∧
      t = { s with
        oe := false, cntreg := t.cntreg, phase := next, ifg := false, events := s.events ++ [.pins ⟨false, !s.sclq⟩] } :=
  ⟨clearIfg (openAckSlot next s), invoke_completes hi hg rfl, count_withCount s.cntreg 1#8,
    flags_withCount s.cntreg 1#8, rfl⟩

/-- Settles O15: both phases open an acknowledge slot, each with its CHECK phase next. -/
theorem ackPhasesOpenOneBitSlot : Obligations.AckPhasesOpenOneBitSlot := by
  unfold Obligations.AckPhasesOpenOneBitSlot
  exact fun s hi hg => ⟨invoke_openAckSlot 0b010#3 hi hg, invoke_openAckSlot 0b100#3 hi hg⟩

/-- Settles O16: below `LEN` a payload byte goes out, and the cursor's increment does not wrap. -/
theorem acknowledgedPhasesLoadPayloadByte : Obligations.AcknowledgedPhasesLoadPayloadByte := by
  unfold Obligations.AcknowledgedPhasesLoadPayloadByte
  intro i s hop hi hg hge hcursor hlen
  have hsend := sendPayloadByte_eq hge
  rw [if_pos hcursor, Nat.mod_eq_of_lt (by omega)] at hsend
  rcases hop with rfl | rfl <;>
    exact ⟨_, invoke_completes hi hg hsend, count_withCount s.cntreg 8#8, flags_withCount s.cntreg 8#8, rfl⟩

/-- An invocation that turns the data line to output, writes the indicator and performs the stop actions (R157, R159,
R160). -/
theorem invoke_stop {s : State} (e : Bool) (hi : s.ifg = true) (hg : s.gie = true) (hge : s.ge = false) :
    invoke (fun t => .next (stopActions { dirOut t with err := e })) s =
      .next { s with
        err := e, sr := 0xFF#8, oe := false, sdaq := true, sclq := true, phase := 0b000#3, busy := false,
        ifg := false, wakes := if s.busy then s.wakes + 1 else s.wakes,
        events := s.events ++
          [.pins ⟨!s.sdaq, !s.sclq⟩, .pins ⟨true, !s.sclq⟩, .pins ⟨true, false⟩, .pins ⟨false, false⟩, .sym .stop,
            .pins ⟨false, false⟩] } := by
  have hstop := stopActions_eq (s := { dirOut s with err := e }) hge
  rw [invoke_enabled _ hi hg, hstop]
  simp [controllerReturn, clearIfg, dirOut, setOe_eq, hge]

/-- Settles O18: both refusals write 1 to the indicator and perform the stop actions. -/
theorem refusedByteEndsTransaction : Obligations.RefusedByteEndsTransaction := by
  unfold Obligations.RefusedByteEndsTransaction
  rintro i s (rfl | rfl) hi hg hge <;> exact invoke_stop true hi hg hge

/-- Settles O19: the last acknowledge writes 0 to the indicator and performs the stop actions. -/
theorem lastAcknowledgeEndsTransaction : Obligations.LastAcknowledgeEndsTransaction := by
  unfold Obligations.LastAcknowledgeEndsTransaction
  exact fun s hi hg hge => invoke_stop false hi hg hge

/-- Settles O36: with a completion pending and enabled the block's own step is the controller's. -/
theorem stepInvokesDispatchedOperation : Obligations.StepInvokesDispatchedOperation := by
  unfold Obligations.StepInvokesDispatchedOperation
  intro s halone hi hg
  rw [step_blockAlone halone, if_pos hi, if_pos hg]
  rfl

/-! ## The phase codes that operations leave -/

/-- The outcome has a legal phase code, where it is a next state. -/
def LegalAfter (r : Result) : Prop := ∀ t, r = .next t → PhaseLegal t

/-- Legality is a matter of the phase register alone. -/
theorem PhaseLegal.legalAfter {s t : State} (h : PhaseLegal s) (hp : t.phase = s.phase) : LegalAfter (.next t) := by
  rintro _ ⟨⟩
  rwa [PhaseLegal, hp]

theorem legalAfter_fault (r : Fault) : LegalAfter (.fault r) := by
  rintro t ⟨⟩

theorem phase_loadSr (v : Byte) (s : State) : (loadSr v s).phase = s.phase := by
  unfold loadSr
  split <;> rfl

theorem phase_startGen (s : State) : (startGen s).phase = s.phase := by simp [startGen, phase_loadSr]

theorem phase_stopGen (s : State) : (stopGen s).phase = s.phase := by simp [stopGen, phase_loadSr]

theorem phase_afterAnswer (s : State) : (afterAnswer s).phase = s.phase := by rw [afterAnswer_frame]

theorem phase_waitFor (s : State) : (waitFor s).phase = s.phase := by
  unfold waitFor
  split <;> rfl

theorem legalAfter_kickOff (a : Addr) (len : Nat) (s : State) : LegalAfter (kickOff a len s) := by
  intro t h
  rw [kickOff_eq] at h
  split_ifs at h
  cases h
  exact .inl rfl

theorem legalAfter_writeTransaction (a : Addr) (len : Nat) (s : State) :
    LegalAfter (execWriteTransaction a len s) := by
  intro t h
  unfold execWriteTransaction at h
  split at h <;> cases h
  rw [PhaseLegal, phase_waitFor]
  exact legalAfter_kickOff a len s _ ‹_›

theorem PhaseLegal.seqStep {s : State} (h : PhaseLegal s) (out : Bool) (sym : Bool → Bool → Sym) :
    LegalAfter (seqStep out sym s) := by
  obtain ⟨-, -, -, hs⟩ | ⟨-, -, -, hs⟩ | ⟨-, hs⟩ := seqStep_cases out sym s <;> rw [hs]
  · exact h.legalAfter ((clockBit_position _ _ _).1.trans (phase_afterAnswer s))
  · exact h.legalAfter (phase_afterAnswer s)
  · exact h.legalAfter rfl

/-- An invocation leaves the phase register as its operation does, or as it was. -/
theorem PhaseLegal.invoke {s : State} {op : State → Result} (h : PhaseLegal s) (hop : LegalAfter (op s)) :
    LegalAfter (invoke op s) := by
  intro t ht
  obtain ⟨-, -, u, hu, rfl⟩ | ⟨-, rfl⟩ := invoke_next ht
  · exact hop u hu
  · exact h

/-- A payload byte goes out with the phase DATA_ACK next. -/
theorem legalAfter_sendPayloadByte (s : State) : LegalAfter (sendPayloadByte s) := by
  intro t h
  unfold sendPayloadByte at h
  dsimp only at h
  split at h <;> cases h
  simp [PhaseLegal]

/-- No operation takes a legal phase code to a reserved one. -/
theorem PhaseLegal.exec {s : State} (h : PhaseLegal s) (i : Instr) : LegalAfter (exec i s) := by
  cases i
  case wt a len => exact legalAfter_kickOff a len s
  case writeTransaction a len => exact legalAfter_writeTransaction a len s
  case phStart | phAddrAck | phAddrCheckNack | phDataAck | phDataCheckLast | phDataCheckNack =>
    dsimp only [Machine.exec, execPhStart, execPhAddrAck, execPhAddrCheckNack, execPhDataAck, execPhDataCheckLast,
      execPhDataCheckNack]
    apply h.invoke
    rintro _ ⟨⟩
    simp [PhaseLegal, openAckSlot, stopActions]
  case phAddrCheckAck | phDataCheckNext => exact h.invoke (legalAfter_sendPayloadByte s)
  case reserved101 | reserved11x => exact legalAfter_fault _
  case txBit | rxBit => exact h.seqStep _ _
  case stopActions | reset =>
    rintro _ ⟨⟩
    exact .inl rfl
  case dirOut | dirIn | loadCnt | readRx | raiseIfg | clearIfg | latchOpen | latchClose | sclRelease | readErr =>
    exact h.legalAfter rfl
  case loadSr => exact h.legalAfter (phase_loadSr _ s)
  case startGen => exact h.legalAfter (phase_startGen s)
  case stopGen => exact h.legalAfter (phase_stopGen s)
  case wait => exact h.legalAfter (phase_waitFor s)

/-- Settles O21: the dispatch words one by one, the meaning of the two reserved rows, and the phase codes that operations
leave. -/
theorem reservedWordsFaultAndAreUnreachable : Obligations.ReservedWordsFaultAndAreUnreachable := by
  unfold Obligations.ReservedWordsFaultAndAreUnreachable
  exact ⟨by decide, fun _ => ⟨rfl, rfl⟩, fun i s t hs h => hs.exec i t h, .inl rfl⟩

end Sys2Proof.Machine
end

section
/-! PROOFS. The phase operations against the transition table (R162). -/

namespace Sys2Proof.Machine

/-- What carrying out a row answers: the state it leads to, or the fault of a payload read that has no value (R61). -/
def rowResult (row : Row) (s : State) : Result :=
  match carryOut row s with
  | some t => .next t
  | none => .fault .payloadOutOfRange

/-! ## What the load of the shift register does not look at -/

/-- A load of the shift register, by whether the latch is transparent (R102). -/
theorem loadSr_eq (v : Byte) (s : State) :
    loadSr v s =
      { s with
        sr := v, sdaq := if s.ge then v.getLsbD 7 else s.sdaq,
        events := if s.ge then s.events ++ [.pins ⟨s.oe && !v.getLsbD 7, !s.sclq⟩] else s.events } := by
  cases hge : s.ge
  · simp [loadSr_closed hge, hge]
  · simp [loadSr_open hge, hge]

/-- The stop condition neither reads nor writes the indicator. -/
theorem stopGen_err (e : Bool) (s : State) : stopGen { s with err := e } = { stopGen s with err := e } := by
  rw [stopGen, stopGen, loadSr_eq 0x00#8, loadSr_eq 0x00#8]
  rfl

/-! ## The rows -/

/-- The row of phase START (R153). -/
theorem exec_phStart_row {s : State} (hi : s.ifg = true) (hg : s.gie = true) :
    exec .phStart s =
      rowResult ⟨.phStart, 0b001#3, false, none, [.startGen, .loadSrAddr, .loadCnt 8#8, .clearIfg], false⟩ s := by
  dsimp only [exec, execPhStart]
  rw [invoke_enabled _ hi hg]
  rfl

/-- The rows of the two acknowledge phases (R154, R156). -/
theorem invoke_openAckSlot_row {s : State} (op : Instr) (next : PhaseCode) (hi : s.ifg = true) (hg : s.gie = true) :
    invoke (fun t => .next (openAckSlot next t)) s =
      rowResult ⟨op, next, false, none, [.dirIn, .loadCnt 1#8, .clearIfg], false⟩ s := by
  rw [invoke_enabled _ hi hg]
  rfl

/-- The rows that load a payload byte (R155, R158): `ERR` is written before the load and the read recorded after it, and
the load looks at neither. -/
theorem invoke_sendPayloadByte_row {s : State} (op : Instr) (hi : s.ifg = true) (hg : s.gie = true) :
    invoke sendPayloadByte s =
      rowResult ⟨op, 0b011#3, true, some false, [.dirOut, .loadSrPayload, .loadCnt 8#8, .clearIfg], false⟩ s := by
  have hoperand : payloadOperand (clearErr (dirOut s)) = payloadOperand (dirOut s) := rfl
  rw [invoke_enabled _ hi hg, sendPayloadByte, rowResult, carryOut]
  simp only [performAll, perform, hoperand]
  cases payloadOperand (dirOut s) with
  | none => rfl
  | some b =>
    simp only [loadSr_eq]
    rfl

/-- The rows that end the transaction (R157, R159, R160): `ERR` is written before the stop condition, which does not look
at it. -/
theorem invoke_stop_row {s : State} (op : Instr) (e : Bool) (hi : s.ifg = true) (hg : s.gie = true) :
    invoke (fun t => .next (stopActions { dirOut t with err := e })) s =
      rowResult ⟨op, 0b000#3, false, some e, [.dirOut, .stopGen, .clearIfg], true⟩ s := by
  rw [invoke_enabled _ hi hg, stopActions, stopGen_err]
  rfl

/-! ## The table -/

/-- The operation of a row is the one the dispatch word selects (R88, R162). -/
theorem decodePhase_of_row {p : PhaseCode} {n l : Bool} {row : Row} (h : advance p n l = some row) :
    decodePhase p n l = row.op := by
  have hall : ∀ p n l, ∀ row ∈ advance p n l, decodePhase p n l = row.op := by decide
  exact hall p n l row h

/-- A phase code without a row dispatches one of the two reserved operations (R161). -/
theorem exec_of_no_row {p : PhaseCode} {n l : Bool} (h : advance p n l = none) (s : State) :
    exec (decodePhase p n l) s = .fault .reservedDispatch := by
  have hall : ∀ p n l, advance p n l = none →
      decodePhase p n l = .reserved101 ∨ decodePhase p n l = .reserved11x := by decide
  rcases hall p n l h with hop | hop <;> rw [hop] <;> rfl

/-- The operation of a row, enabled, is the row carried out. -/
theorem exec_of_row {p : PhaseCode} {n l : Bool} {row : Row} {s : State} (h : advance p n l = some row)
    (hi : s.ifg = true) (hg : s.gie = true) : exec row.op s = rowResult row s := by
  unfold advance at h
  split_ifs at h <;> cases h
  · exact exec_phStart_row hi hg
  · exact invoke_openAckSlot_row .phAddrAck _ hi hg
  · exact invoke_stop_row .phAddrCheckNack true hi hg
  · exact invoke_sendPayloadByte_row .phAddrCheckAck hi hg
  · exact invoke_openAckSlot_row .phDataAck _ hi hg
  · exact invoke_stop_row .phDataCheckNack true hi hg
  · exact invoke_stop_row .phDataCheckLast false hi hg
  · exact invoke_sendPayloadByte_row .phDataCheckNext hi hg

/-- Settles O56, by whether the phase code has a row. -/
theorem invocationFollowsTransitionTable : Obligations.InvocationFollowsTransitionTable := by
  unfold Obligations.InvocationFollowsTransitionTable
  intro s hi hg
  rw [decodeDw_dw]
  split
  case h_1 row hrow => exact ⟨decodePhase_of_row hrow, exec_of_row hrow hi hg⟩
  case h_2 hnone => exact exec_of_no_row hnone s

end Sys2Proof.Machine
end

section
/-! PROOFS. Whole transactions: one in which every slot is acknowledged, and one whose address is refused (R163, R164,
R166). -/

namespace Sys2Proof.Machine

/-! ## Runs -/

/-- A run goes on where its first steps have led. -/
theorem runFor_add {m : Nat} {s t : State} (n : Nat) (h : runFor m s = .next t) : runFor (m + n) s = runFor n t := by
  induction m generalizing s with
  | zero =>
    cases h
    rw [Nat.zero_add]
  | succ m ih =>
    rw [Nat.succ_add, runFor]
    rw [runFor] at h
    split at h
    case h_1 => exact ih h
    case h_2 | h_3 => cases h

theorem runFor_one (s : State) : runFor 1 s = step s := by
  rw [runFor]
  cases step s <;> rfl

/-- A run from a sound state stays sound (R37). -/
theorem BlockInv.runFor {n : Nat} {s t : State} (hI : BlockInv s) (h : runFor n s = .next t) : BlockInv t := by
  induction n generalizing s with
  | zero =>
    cases h
    exact hI
  | succ n ih =>
    rw [Machine.runFor] at h
    split at h
    case h_1 u hu => exact ih (stepKeepsBoundaryInvariants s u hI hu) h
    case h_2 | h_3 => cases h

/-! ## What a bit group leaves alone -/

/-- What the run of a transaction looks at and a bit group leaves alone: how far the transaction has come, and what is
outside the block except the oracle. -/
structure Held where
  cursor : Nat
  len : Nat
  err : Bool
  busy : Bool
  reads : List Nat
  wakes : Nat
  lenw : Nat
  payload : List Host.Cell
  rst : Bool
  gie : Bool
  pins : List Pins
  script : List HostOp
  strobe : Option Strobe

/-- The part of this state. -/
def held (s : State) : Held where
  cursor := s.cursor
  len := s.len
  err := s.err
  busy := s.busy
  reads := s.reads
  wakes := s.wakes
  lenw := s.lenw
  payload := s.payload
  rst := s.rst
  gie := s.gie
  pins := s.pins
  script := s.script
  strobe := s.strobe

/-! ## Where a transaction stands -/

/-- A sound state in which nothing outside the block is due and a completion would be taken at once. -/
structure Driving (s : State) : Prop where
  inv : BlockInv s
  alone : BlockAlone s
  gie : s.gie = true

/-- A byte has been loaded, all its bits to come. -/
structure Loaded (b : Byte) (s : State) : Prop where
  driving : Driving s
  phase : s.phase = 0b001#3 ∨ s.phase = 0b011#3
  ifg : s.ifg = false
  cnt : cnt s = 8#5
  sr : s.sr = b

/-- An acknowledge slot is open, its one bit to come. -/
structure Listening (s : State) : Prop where
  driving : Driving s
  phase : s.phase = 0b010#3 ∨ s.phase = 0b100#3
  ifg : s.ifg = false
  cnt : cnt s = 1#5
  oe : s.oe = false

/-- An acknowledge slot has been read, and its completion is pending. -/
structure Answered (bit : Bool) (s : State) : Prop where
  driving : Driving s
  phase : s.phase = 0b010#3 ∨ s.phase = 0b100#3
  ifg : s.ifg = true
  nack : nack s = bit

/-- The block goes on by itself as long as what is held stays. -/
theorem Driving.of_held {s t : State} (h : Driving s) (hI : BlockInv t) (ht : held t = held s) : Driving t := by
  obtain ⟨-, ⟨hr, hp, hs, hq⟩, hg⟩ := h
  simp only [held, Held.mk.injEq] at ht
  obtain ⟨-, -, -, hbusy, -, -, -, -, hrst, hgie, hpins, hscript, hstrobe⟩ := ht
  refine ⟨hI, ⟨hrst ▸ hr, hpins ▸ hp, hstrobe ▸ hs, ?_⟩, hgie ▸ hg⟩
  rwa [hostQuiet, hscript, hbusy]

/-- With a completion pending the step is the operation that the dispatch word selects (R150). -/
theorem Driving.step_pending {s : State} (h : Driving s) (hi : s.ifg = true) :
    step s = exec (decodePhase s.phase (Machine.nack s) (last s)) s := by
  rw [step_blockAlone h.alone, if_pos hi, if_pos h.gie, decodeDw_dw]

theorem Driving.ge {s : State} (h : Driving s) : s.ge = false := (blockInv_iff.1 h.inv).1.ge

/-- Past the start condition a transaction is in a bit group. -/
theorem Answered.inGroup {bit : Bool} {s : State} (h : Answered bit s) : InGroup s :=
  h.driving.inv.inGroup fun hp => by simpa [hp] using h.phase

/-! ## A byte and its slot -/

/-- Nine clocked answers: eight for the bits of a byte, and one for its slot. -/
theorem slotAnswer_of_clocked {o : List Answer} (h : clocked 9 o) :
    clocked 8 o ∧ ∃ x, x.clockRises = true ∧ o[8]? = some x ∧ o.drop 8 = x :: o.drop 9 := by
  match o, h with
  | _ :: _ :: _ :: _ :: _ :: _ :: _ :: _ :: x :: rest, h =>
    simp only [clocked] at h
    simp [clocked, h]

/-- Eight steps send the byte (R124). -/
theorem Loaded.sendByte {b : Byte} {s : State} (h : Loaded b s) (ho : clocked 8 s.oracle) :
    ∃ t, runFor 8 s = .next t ∧ Driving t ∧ t.phase = s.phase ∧ t.ifg = true ∧ wire t = wire s ++ byteBits b ∧
      t.oracle = s.oracle.drop 8 ∧ held t = held s := by
  obtain ⟨-, ⟨-, -, -, -, hoe, -, -⟩, -⟩ := h.driving.inv
  obtain ⟨t, hrun, hi, -, -, -, hwire, horacle, -, hframe⟩ :=
    transmitGroupSendsByte s h.driving.alone h.ifg h.cnt (hoe h.phase) ho
  have hheld : held t = held s := by
    rw [hframe]
    rfl
  have hphase : t.phase = s.phase := by rw [hframe]
  exact ⟨t, hrun, h.driving.of_held (h.driving.inv.runFor hrun) hheld, hphase, hi, h.sr ▸ hwire, horacle, hheld⟩

/-- With the byte sent the step turns to input for its slot (R154, R156). -/
theorem Driving.openSlot {s : State} (h : Driving s) (hi : s.ifg = true) (hp : s.phase = 0b001#3 ∨ s.phase = 0b011#3) :
    ∃ t, step s = .next t ∧ Listening t ∧ wire t = wire s ∧ t.oracle = s.oracle ∧ held t = held s := by
  obtain ⟨next, hnext, hstep⟩ : ∃ next, (next = 0b010#3 ∨ next = 0b100#3) ∧
      step s = invoke (fun t => .next (openAckSlot next t)) s := by
    rw [h.step_pending hi]
    rcases hp with hp | hp <;> rw [hp]
    · exact ⟨_, .inl rfl, rfl⟩
    · exact ⟨_, .inr rfl, rfl⟩
  obtain ⟨t, ht, hcnt, -, hframe⟩ := invoke_openAckSlot next hi h.gie
  rw [← hstep] at ht
  have hheld : held t = held s := by
    rw [hframe]
    rfl
  have hd := h.of_held (stepKeepsBoundaryInvariants s t h.inv ht) hheld
  have hwire : wire t = wire s := by
    rw [hframe]
    exact wire_eq_of_silent rfl rfl
  refine ⟨t, ht, ⟨hd, ?_, ?_, hcnt, ?_⟩, hwire, ?_, hheld⟩ <;> rw [hframe]
  exact hnext

/-- The slot's bit step reads the answer lined up (R122). -/
theorem Listening.readSlot {s : State} {x : Answer} {rest : List Answer} (h : Listening s) (ho : s.oracle = x :: rest)
    (hrise : x.clockRises = true) :
    ∃ t, step s = .next t ∧ Answered x.tSda t ∧ wire t = wire s ++ [.rx x.tSda] ∧ t.oracle = rest ∧
      held t = held s := by
  obtain ⟨hanswer, hused⟩ := answer_lined_up ho
  have hcnt : Machine.cnt s ≠ 0#5 := by simp [h.cnt]
  obtain ⟨-, -, hstep⟩ := directionSelectsBitOperation s h.driving.alone h.ifg hcnt
  obtain ⟨t, ht, -, -, hbit, -, hframe⟩ :=
    receiveBitStep s (seqEnabled_iff.2 ⟨h.ifg, hcnt⟩) h.oe (hanswer ▸ hrise)
  rw [← hstep h.oe] at ht
  rw [hanswer] at hbit hframe
  have hheld : held t = held s := by
    rw [hframe]
    rfl
  have hd := h.driving.of_held (stepKeepsBoundaryInvariants s t h.driving.inv ht) hheld
  have hwire : wire t = wire s ++ [.rx x.tSda] := by
    rw [hframe]
    exact wire_eq_concat rfl rfl
  have horacle : t.oracle = rest := by rw [hframe, hused]
  have hphase : t.phase = s.phase := by rw [hframe]
  have hifg : t.ifg = true := by
    rw [hframe, h.cnt]
    rfl
  exact ⟨t, ht, ⟨hd, hphase ▸ h.phase, hifg, hbit⟩, hwire, horacle, hheld⟩

/-- The ten steps of a byte and its slot: eight bits, the turn to input, the slot's bit. -/
theorem Loaded.runFor {b : Byte} {s : State} {x : Answer} (h : Loaded b s) (ho : clocked 9 s.oracle)
    (hx : s.oracle[8]? = some x) :
    ∃ t, runFor 10 s = .next t ∧ Answered x.tSda t ∧ wire t = wire s ++ byteBits b ++ [.rx x.tSda] ∧
      t.oracle = s.oracle.drop 9 ∧ held t = held s := by
  obtain ⟨h8, y, hrise, hy, hdrop⟩ := slotAnswer_of_clocked ho
  obtain rfl : x = y := by simpa [hx] using hy
  obtain ⟨u, hu, hdriving, hphase, hi, hwu, hou, hhu⟩ := h.sendByte h8
  obtain ⟨v, hv, hlistening, hwv, hov, hhv⟩ := hdriving.openSlot hi (hphase ▸ h.phase)
  obtain ⟨t, ht, hanswered, hwt, hot, hht⟩ := hlistening.readSlot (hov.trans (hou.trans hdrop)) hrise
  refine ⟨t, ?_, hanswered, ?_, hot, hht.trans (hhv.trans hhu)⟩
  · calc Machine.runFor 10 s = Machine.runFor 2 u := runFor_add 2 hu
      _ = Machine.runFor 1 v := by rw [Machine.runFor, hv]
      _ = .next t := (runFor_one v).trans ht
  · rw [hwt, hwv, hwu]

/-- After an acknowledge, with a payload byte unsent, the step loads it (R155, R158). -/
theorem Answered.load {s : State} (h : Answered false s) (hc : s.cursor < s.len) :
    ∃ t, step s = .next t ∧ Loaded (Memory.read s.payload s.cursor) t ∧ wire t = wire s ∧ t.oracle = s.oracle ∧
      held t = { held s with cursor := s.cursor + 1, reads := s.reads ++ [s.cursor], err := false } := by
  obtain ⟨i, hi, hstep⟩ : ∃ i, (i = .phAddrCheckAck ∨ i = .phDataCheckNext) ∧ step s = exec i s := by
    have hlast : last s = false := beq_false_of_ne hc.ne
    rw [h.driving.step_pending h.ifg, h.nack, hlast]
    rcases h.phase with hp | hp <;> rw [hp]
    · exact ⟨_, .inl rfl, rfl⟩
    · exact ⟨_, .inr rfl, rfl⟩
  obtain ⟨-, -, -, hlen⟩ := h.driving.inv
  obtain ⟨t, ht, hcnt, -, hframe⟩ :=
    acknowledgedPhasesLoadPayloadByte i s hi h.ifg h.driving.gie h.driving.ge hc hlen
  rw [← hstep] at ht
  have hinv := stepKeepsBoundaryInvariants s t h.driving.inv ht
  have hd : Driving t := by
    refine ⟨hinv, ?_, ?_⟩ <;> rw [hframe]
    · exact h.driving.alone
    · exact h.driving.gie
  have hwire : wire t = wire s := by
    rw [hframe]
    exact wire_eq_of_silent rfl rfl
  refine ⟨t, ht, ⟨hd, .inr ?_, ?_, hcnt, ?_⟩, hwire, ?_, ?_⟩ <;> rw [hframe]
  rfl

/-- After a refusal, or with no byte unsent, the step ends the transaction (R157, R159, R160). -/
theorem Answered.stop {bit : Bool} {s : State} (h : Answered bit s) (hend : bit = true ∨ s.cursor = s.len) :
    ∃ t, step s = .next t ∧ Final t ∧ wire t = wire s ++ [.stop] ∧ t.oracle = s.oracle ∧
      held t = { held s with err := bit, busy := false, wakes := s.wakes + 1 } := by
  have hgroup := h.inGroup
  have hstep : step s = invoke (fun t => .next (stopActions { dirOut t with err := bit })) s := by
    rw [h.driving.step_pending h.ifg, h.nack]
    cases bit
    case true => rcases h.phase with hp | hp <;> rw [hp] <;> rfl
    case false =>
      have hall : s.cursor = s.len := by simpa using hend
      have hlast : last s = true := beq_iff_eq.2 hall
      have hphase : s.phase = 0b100#3 := by
        refine h.phase.resolve_left fun hp => ?_
        have hnone := hgroup.unsent.2 (.inr hp)
        have hsome := hgroup.range.1
        omega
      rw [hphase, hlast]
      rfl
  have ht := hstep.trans (invoke_stop bit h.ifg h.driving.gie h.driving.ge)
  obtain ⟨hr, hp, -, -⟩ := h.driving.alone
  obtain ⟨hfinal, -, -, hwire, -, -, -⟩ :=
    endOfTransactionLeavesIdle s _ h.driving.inv ht hgroup.busy rfl (by rwa [samplePins_held hp])
  exact ⟨_, ht, hfinal, hwire, rfl, by simp [held, hgroup.busy]⟩

/-! ## The call -/

/-- Idle, sound, reset released and completions enabled, with a write transaction that keeps its duties as the host's
next statement. -/
structure Calls (a : Addr) (len : Nat) (rest : List HostOp) (s : State) : Prop where
  inv : BlockInv s
  free : s.busy = false
  rst : s.rst = false
  gie : s.gie = true
  pins : s.pins = []
  script : s.script = .writeTransaction a len :: rest
  nonzero : len ≠ 0
  width : len < 2 ^ s.lenw

/-- The kick-off of the transaction: the host waits, and the start condition is due (R93, R140). -/
theorem Calls.kickOff {a : Addr} {len : Nat} {rest : List HostOp} {s : State} (h : Calls a len rest s) :
    ∃ t, step s = .next t ∧ Driving t ∧ t.phase = 0b000#3 ∧ t.ifg = true ∧ t.addrByte = frameAddress a ∧
      wire t = wire s ∧ t.oracle = s.oracle ∧
      held t = { held s with cursor := 0, len := len, busy := true, script := .wait :: rest } := by
  have hstrobe := (blockInv_iff.1 h.inv).1.strobe
  obtain ⟨-, hcall, -, -⟩ := stepTakesHostStatement s rest h.rst h.pins hstrobe
  have hkick := kickOff_of_duties a (s := { s with script := rest }) h.free h.nonzero h.width
  have hstep : step s = .next { s with
      addrByte := frameAddress a, len := len, cursor := 0, phase := 0b000#3, ifg := true, busy := true,
      script := .wait :: rest } := by
    rw [hcall a len h.script]
    simp only [exec, execWriteTransaction, hkick]
    rw [waitFor_in_flight rfl]
  have hinv := stepKeepsBoundaryInvariants s _ h.inv hstep
  exact ⟨_, hstep, ⟨hinv, ⟨h.rst, h.pins, hstrobe, rfl⟩, h.gie⟩, rfl, rfl, rfl, rfl, rfl, rfl⟩

/-- The start condition, and the address byte loaded behind it (R153). -/
theorem Driving.start {s : State} (h : Driving s) (hp : s.phase = 0b000#3) (hi : s.ifg = true) :
    ∃ t, step s = .next t ∧ Loaded s.addrByte t ∧ wire t = wire s ++ [.start] ∧ t.oracle = s.oracle ∧
      held t = held s := by
  have hstep : step s = exec .phStart s := by
    rw [h.step_pending hi, hp]
    rfl
  obtain ⟨t, ht, hcnt, -, hframe⟩ := startPhaseSendsAddressByte s hi h.gie h.ge
  rw [← hstep] at ht
  have hheld : held t = held s := by
    rw [hframe]
    rfl
  have hd := h.of_held (stepKeepsBoundaryInvariants s t h.inv ht) hheld
  have hwire : wire t = wire s ++ [.start] := by
    rw [hframe]
    exact wire_eq_concat rfl rfl
  refine ⟨t, ht, ⟨hd, .inl ?_, ?_, hcnt, ?_⟩, hwire, ?_, hheld⟩ <;> rw [hframe]

/-- The twelve steps of a call up to the answer of its address: the kick-off, the start condition, and the address byte
with its slot. -/
theorem Calls.runFor_address {a : Addr} {len : Nat} {rest : List HostOp} {s : State} {x : Answer}
    (h : Calls a len rest s) (ho : clocked 9 s.oracle) (hx : s.oracle[8]? = some x) :
    ∃ t, runFor 12 s = .next t ∧ Answered x.tSda t ∧
      wire t = wire s ++ [.start] ++ byteBits (frameAddress a) ++ [.rx x.tSda] ∧ t.oracle = s.oracle.drop 9 ∧
      held t = { held s with cursor := 0, len := len, busy := true, script := .wait :: rest } := by
  obtain ⟨u, hu, hdriving, hphase, hi, haddr, hwu, hou, hhu⟩ := h.kickOff
  obtain ⟨v, hv, hloaded, hwv, hov, hhv⟩ := hdriving.start hphase hi
  have horacle : v.oracle = s.oracle := hov.trans hou
  obtain ⟨t, ht, hanswered, hwt, hot, hht⟩ := hloaded.runFor (horacle ▸ ho) (horacle ▸ hx)
  refine ⟨t, ?_, hanswered, ?_, horacle ▸ hot, hht.trans (hhv.trans hhu)⟩
  · calc runFor 12 s = runFor 11 u := by rw [runFor, hu]
      _ = runFor 10 v := by rw [runFor, hv]
      _ = .next t := ht
  · rw [hwt, hwv, hwu, haddr]

/-! ## The payload -/

/-- A byte acknowledged: nine clocked answers, the last of them a 0. -/
theorem slotAnswer_of_acked {o : List Answer} (h : byteAcked o) :
    clocked 9 o ∧ ∃ x, o[8]? = some x ∧ x.tSda = false := by
  obtain ⟨hclocked, hack⟩ := h
  obtain ⟨-, x, -, hx, hdrop⟩ := slotAnswer_of_clocked hclocked
  rw [hdrop] at hack
  exact ⟨hclocked, x, hx, hack⟩

/-- From an acknowledge with `n` payload bytes unsent, all of them acknowledged: eleven steps for each, and the one that
ends the transaction (R158, R159). -/
theorem Answered.runFor_payload {n : Nat} {s : State} (h : Answered false s) (hn : s.cursor + n = s.len)
    (ho : allAcked n s.oracle) :
    ∃ t, runFor (11 * n + 1) s = .next t ∧ Final t ∧
      wire t = wire s ++ dataTrace s.payload s.cursor n ++ [.stop] ∧ t.oracle = s.oracle.drop (9 * n) ∧
      held t = { held s with
        cursor := s.cursor + n, reads := s.reads ++ List.range' s.cursor n, err := false, busy := false,
        wakes := s.wakes + 1 } := by
  induction n generalizing s with
  | zero =>
    obtain ⟨t, ht, hfinal, hwire, horacle, hheld⟩ := h.stop (.inr hn)
    refine ⟨t, (runFor_one s).trans ht, hfinal, ?_, horacle, ?_⟩
    · rw [hwire, dataTrace, List.append_nil]
    · rw [hheld, List.range'_zero, List.append_nil]
      rfl
  | succ n ih =>
    obtain ⟨hbyte, hrest⟩ := ho
    obtain ⟨hclocked, x, hx, hack⟩ := slotAnswer_of_acked hbyte
    obtain ⟨u, hu, hloaded, hwu, hou, hhu⟩ := h.load (by omega)
    obtain ⟨v, hv, hanswered, hwv, hov, hhv⟩ := hloaded.runFor (hou ▸ hclocked) (hou ▸ hx)
    rw [hack] at hanswered hwv
    have hheld := hhv.trans hhu
    simp only [held, Held.mk.injEq] at hheld
    obtain ⟨hcursor, hlen, -, -, hreads, hwakes, -, hpayload, -⟩ := hheld
    obtain ⟨t, ht, hfinal, hwt, hot, hht⟩ := ih hanswered (by omega) (by rwa [hov, hou])
    refine ⟨t, ?_, hfinal, ?_, ?_, ?_⟩
    · have hsteps : 11 * (n + 1) + 1 = 1 + (10 + (11 * n + 1)) := by ring
      rw [hsteps, runFor_add _ ((runFor_one s).trans hu), runFor_add _ hv, ht]
    · rw [hwt, hwv, hwu, hpayload, hcursor]
      simp [dataTrace]
    · rw [hot, hov, hou, List.drop_drop]
      congr 1
      ring
    · rw [hht, hhv, hhu]
      simp [hcursor, hreads, hwakes, List.range'_succ, Nat.add_assoc, Nat.add_comm 1]

/-! ## The two transactions -/

/-- Settles O59: the call, then each payload byte with its slot, then the stop. -/
theorem acknowledgedTransactionRunsToItsEnd : Obligations.AcknowledgedTransactionRunsToItsEnd := by
  unfold Obligations.AcknowledgedTransactionRunsToItsEnd
  intro a len rest s hI hfree hrst hgie hpins hscript h0 hwidth ⟨haddress, hpayload⟩
  have hcalls : Calls a len rest s := ⟨hI, hfree, hrst, hgie, hpins, hscript, h0, hwidth⟩
  obtain ⟨hclocked, x, hx, hack⟩ := slotAnswer_of_acked haddress
  obtain ⟨u, hu, hanswered, hwu, hou, hhu⟩ := hcalls.runFor_address hclocked hx
  rw [hack] at hanswered hwu
  have hheld := hhu
  simp only [held, Held.mk.injEq] at hheld
  obtain ⟨hcursor, hlen, -, -, hreads, hwakes, -, hbuffer, -, -, -, hwaits, -⟩ := hheld
  obtain ⟨t, ht, hfinal, hwt, hot, hht⟩ :=
    hanswered.runFor_payload (n := len) (by omega) (by rwa [hou])
  simp only [held, Held.mk.injEq] at hht
  obtain ⟨-, -, herr, -, hreadsT, hwakesT, -, -, -, -, -, hscriptT, -⟩ := hht
  have hsteps : 1 + (3 + 2 * len) + (9 + 9 * len) = 12 + (11 * len + 1) := by ring
  refine ⟨t, ?_, hfinal, herr, ?_, ?_, ?_, hscriptT.trans hwaits, ?_⟩
  · rw [hsteps, runFor_add _ hu, ht]
  · rw [hwt, hwu, hbuffer, hcursor]
    simp [transactionTrace]
  · rw [hreadsT, hreads, hcursor, List.range_eq_range']
  · rw [hwakesT, hwakes]
  · rw [hot, hou, List.drop_drop]
    congr 1
    ring

/-- Settles O60: the call, and the stop at its refusal. -/
theorem refusedAddressStopsAtOnce : Obligations.RefusedAddressStopsAtOnce := by
  unfold Obligations.RefusedAddressStopsAtOnce
  intro a len rest s x hI hfree hrst hgie hpins hscript h0 hwidth hclocked hx hnack
  have hcalls : Calls a len rest s := ⟨hI, hfree, hrst, hgie, hpins, hscript, h0, hwidth⟩
  obtain ⟨v, hv, hanswered, hwv, -, hhv⟩ := hcalls.runFor_address hclocked hx
  rw [hnack] at hanswered hwv
  obtain ⟨t, ht, hfinal, hwt, -, hht⟩ := hanswered.stop (.inl rfl)
  simp only [held, Held.mk.injEq] at hhv hht
  obtain ⟨hcursor, -, -, hbusy, hreads, hwakes, -⟩ := hhv
  obtain ⟨hcursorT, -, herr, hbusyT, hreadsT, hwakesT, -⟩ := hht
  have hend : endOfStep v t = some .addressNack := by
    simp [endOfStep, hbusy, hbusyT, hwt, herr, hcursorT, hcursor]
  refine ⟨v, t, hv, ht, hend, hfinal, herr, ?_, hreadsT.trans hreads, by rw [hwakesT, hwakes]⟩
  rw [hwt, hwv]
  simp

end Sys2Proof.Machine
end

section
/-! PROOFS. Reset before every other event (R184, R210), and the steps that leave the state as it is (R183, R226). -/

namespace Sys2Proof.Machine

/-- Where reset is held the choice is the reset word, in the state as it is (R210). -/
theorem select_of_rst {s : State} (h : s.rst = true) : select s = .word (.pin 1#1) s := by
  rw [select, if_pos h]

/-- Settles O3: the choice looks at reset before the strobe, the host and the block, and its word decodes. -/
theorem resetPrecedesEveryEvent : Obligations.ResetPrecedesEveryEvent := by
  unfold Obligations.ResetPrecedesEveryEvent
  intro s hrst
  have hdec : decode (.pin 1#1) = .ok .reset := decode_pin_eq_ok_iff.2 ⟨rfl, rfl⟩
  simp only [step, select_of_rst hrst, hdec]

/-- Settles O37: a pending completion keeps the sequencer off and a masked one the controller; at rest there is neither a
completion to handle nor a bit to move. -/
theorem maskedOrRestingBlockStays : Obligations.MaskedOrRestingBlockStays := by
  unfold Obligations.MaskedOrRestingBlockStays
  intro s halone hstays
  rw [step_blockAlone halone]
  obtain ⟨hpending, hmasked⟩ | ⟨hnone, hcount⟩ := hstays
  · simp [hpending, hmasked]
  · simp [hnone, hcount]

end Sys2Proof.Machine
end

section
/-! PROOFS. Reset from every state (R210, R211); that the block goes on in flight, and the five ways in which a
transaction ends (R195, R197, R226). -/

namespace Sys2Proof.Machine

/-! ## Reset -/

/-- Settles O2: the state is the reset block; the two fields of `CNTREG` are those of `FLAGS_RESET` above a count of 0,
and every other value is written as it stands. -/
theorem resetReachesIdleFromEveryState : Obligations.ResetReachesIdleFromEveryState := by
  unfold Obligations.ResetReachesIdleFromEveryState
  exact fun s =>
    ⟨resetBlock s, rfl, rfl, rfl, rfl, count_reset _, flags_reset _, rfl, rfl, rfl, rfl, rfl, rfl, rfl, rfl⟩

/-- Where reset is sampled a step is the reset of the block (R184, R210). -/
theorem eq_resetBlock_of_rst {s t : State} (h : step s = .next t) (hr : (samplePins s).rst = true) :
    t = resetBlock (samplePins s) := by
  cases h.symm.trans (resetPrecedesEveryEvent s hr)
  rfl

/-! ## The block always has a next state -/

/-- From a sound state no invocation faults: the phase code has an operation, and where a payload byte is loaded the
cursor is below `LEN` (R61, R161). -/
theorem BlockInv.exec_dispatched {u : State} (hI : BlockInv u) (hi : u.ifg = true) (hg : u.gie = true) :
    ∃ t, exec (decodePhase u.phase (nack u) (last u)) u = .next t := by
  have hge : u.ge = false := (blockInv_iff.1 hI).1.ge
  have hload {i : Instr} (hop : i = .phAddrCheckAck ∨ i = .phDataCheckNext) (hc : u.cursor < u.len) :
      ∃ t, exec i u = .next t := by
    obtain ⟨-, -, -, hlen⟩ := hI
    obtain ⟨t, ht, -⟩ := acknowledgedPhasesLoadPayloadByte i u hop hi hg hge hc hlen
    exact ⟨t, ht⟩
  have hopen (next : PhaseCode) : ∃ t, invoke (fun t => .next (openAckSlot next t)) u = .next t := by
    obtain ⟨t, ht, -⟩ := invoke_openAckSlot next hi hg
    exact ⟨t, ht⟩
  have hlegal := hI.1.1
  rcases hlegal with hp | hp | hp | hp | hp
  · rw [hp]
    exact ⟨_, exec_phStart hi hg hge⟩
  · rw [hp]
    exact hopen _
  · have hgroup := hI.inGroup (by simp [hp])
    have hnone := hgroup.unsent.2 (.inr hp)
    have hsome := hgroup.range.1
    rw [hp]
    cases nack u
    case true => exact ⟨_, invoke_stop true hi hg hge⟩
    case false => exact hload (.inl rfl) (by omega)
  · rw [hp]
    exact hopen _
  · have hrange := (hI.inGroup (by simp [hp])).range.2
    rw [hp]
    cases nack u
    case true => exact ⟨_, invoke_stop true hi hg hge⟩
    case false =>
      cases hl : last u
      case true => exact ⟨_, invoke_stop false hi hg hge⟩
      case false =>
        have hne : u.cursor ≠ u.len := by simpa [last] using hl
        exact hload (.inr rfl) (by omega)

/-- A bit step always has a next state, taken or not (R125). -/
theorem exec_bit_step (u : State) : ∃ t, exec (if u.oe then .txBit else .rxBit) u = .next t := by
  have hseq (out : Bool) (sym : Bool → Bool → Sym) : ∃ t, seqStep out sym u = .next t := by
    obtain ⟨-, -, -, h⟩ | ⟨-, -, -, h⟩ | ⟨-, h⟩ := seqStep_cases out sym u <;> exact ⟨_, h⟩
  cases u.oe
  · exact hseq false _
  · exact hseq true _

/-- From a sound state with a quiet host every step has a next state, whatever the pins do. -/
theorem BlockInv.exists_step {s : State} (hI : BlockInv s) (hq : hostQuiet s = true) : ∃ t, step s = .next t := by
  have hIu := hI.samplePins
  cases hr : (Machine.samplePins s).rst
  case true => exact ⟨_, resetPrecedesEveryEvent s hr⟩
  case false =>
    have hqu : hostQuiet (Machine.samplePins s) = true := by
      rw [samplePins_frame]
      exact hq
    have hsel : select (Machine.samplePins s) = selectBlock (Machine.samplePins s) := by
      simp [select, hr, (blockInv_iff.1 hIu).1.strobe, selectHost_quiet hqu]
    rw [step, hsel]
    obtain ⟨hi, hg, he⟩ | ⟨-, -, he⟩ | ⟨-, he⟩ := selectBlock_cases (Machine.samplePins s) <;> rw [he]
    · simpa only [decode, decodeDw_dw] using hIu.exec_dispatched hi hg
    · simpa only [decode_seq] using exec_bit_step (Machine.samplePins s)
    · exact ⟨_, rfl⟩

/-! ## A step in flight -/

/-- A sound state with a transaction in flight and the host without a step of its own (R33, R142). -/
structure InFlight (s : State) : Prop where
  inv : BlockInv s
  busy : s.busy = true
  quiet : hostQuiet s = true

/-- In flight a host stays quiet where its script gains at most its own `WAIT`. -/
theorem hostQuiet_of_script {s t : State} (hq : hostQuiet s = true) (hb : t.busy = true)
    (h : t.script = s.script ∨ t.script = .wait :: s.script) : hostQuiet t = true := by
  unfold hostQuiet at hq ⊢
  rcases h with h | h <;> rw [h]
  · revert hq
    split <;> simp [hb]
  · exact hb

/-- The block's own step leaves the host's script to the host. -/
theorem script_of_block {u t : State} (h : BlockMoves u t) :
    t.script = u.script ∨ t.script = .wait :: u.script := by
  obtain ⟨-, -, hexec⟩ | ⟨-, -, hexec⟩ | rfl := h
  case inr.inr => exact .inl rfl
  all_goals
    obtain ⟨-, -, -, -, -, -, -, hscript⟩ := operationsLeavePayloadPortsParameters _ _ _ hexec
    exact hscript

/-- The number of stop symbols stays where a symbol of another kind is emitted. -/
theorem count_stop_of_emit {s t : State} {y : Sym} (hw : wire t = wire s ++ [y]) (hy : y ≠ .stop) :
    (wire t).count .stop = (wire s).count .stop := by
  rw [hw, List.count_append, List.count_singleton, beq_false_of_ne hy]
  rfl

/-- The block's own step emits `P` only where it ends the transaction (R167). -/
theorem BlockInv.count_stop_of_block {u t : State} (hI : BlockInv u) (ht : t.busy = true) (h : BlockMoves u t) :
    (wire t).count .stop = (wire u).count .stop := by
  obtain rfl | hstart | hslot | hload | hstop | hwithheld | hbit := block_cases hI h
  · rfl
  · obtain ⟨-, -, rfl⟩ := hstart
    exact count_stop_of_emit (y := .start) (wire_eq_concat rfl rfl) (by decide)
  · obtain ⟨-, -, rfl⟩ := hslot
    rw [wire_eq_of_silent rfl rfl]
  · obtain ⟨-, -, -, -, rfl⟩ := hload
    rw [wire_eq_of_silent rfl rfl]
  · obtain ⟨-, -, -, rfl⟩ := hstop
    cases ht
  · obtain ⟨-, -, rfl⟩ := hwithheld
    rw [wire_afterAnswer]
  · obtain ⟨-, -, rfl⟩ := hbit
    have hused := wire_afterAnswer u
    rw [← hused]
    exact count_stop_of_emit (wire_clockBit _ _ _) (by cases u.oe <;> simp)

/-- A step that leads out of flight ends the transaction in one of the ways that `endOfStep` knows: by `P`, with `ERR`
the last acknowledge bit, or by reset. -/
theorem BlockInv.exists_ending {s t : State} (hI : BlockInv s) (h : step s = .next t) (hb : s.busy = true)
    (ht : t.busy = false) : ∃ e, endOfStep s t = some e := by
  cases hr : (Machine.samplePins s).rst
  case true =>
    obtain rfl := eq_resetBlock_of_rst h hr
    have hrst : (resetBlock (Machine.samplePins s)).rst = true := hr
    have hwire : wire (resetBlock (Machine.samplePins s)) = [] := rfl
    exact ⟨.reset, by simp [endOfStep, hb, ht, hrst, hwire]⟩
  case false =>
    obtain ⟨-, -, -, hwire, -, -, hsent⟩ := endOfTransactionLeavesIdle s t hI h hb ht hr
    rw [endOfStep, if_pos ⟨hb, ht⟩, if_pos hwire]
    cases herr : t.err
    case true =>
      rw [if_pos rfl]
      split <;> exact ⟨_, rfl⟩
    case false => exact ⟨.success, by simp [hsent herr]⟩

/-- In flight a step goes on without `P`, or ends the transaction. -/
theorem InFlight.step {s : State} (h : InFlight s) :
    ∃ t, step s = .next t ∧
      ((InFlight t ∧ (wire t).count .stop = (wire s).count .stop) ∨ ∃ e, endOfStep s t = some e) := by
  obtain ⟨hI, hb, hq⟩ := h
  obtain ⟨t, ht⟩ := hI.exists_step hq
  refine ⟨t, ht, ?_⟩
  cases hbt : t.busy
  case false => exact .inr (hI.exists_ending ht hb hbt)
  case true =>
    have hr : (samplePins s).rst = false := by
      rw [Bool.eq_false_iff]
      intro hr
      obtain rfl := eq_resetBlock_of_rst ht hr
      cases hbt
    have hIu := hI.samplePins
    have hframe := samplePins_frame s
    have hbu : (samplePins s).busy = true := by
      rw [hframe]
      exact hb
    have hblock := block_of_step_in_flight ht hr (blockInv_iff.1 hIu).1.strobe hbu
    have hscript := script_of_block hblock
    have hcount := hIu.count_stop_of_block hbt hblock
    rw [hframe] at hscript hcount
    exact .inl ⟨⟨stepKeepsBoundaryInvariants s t hI ht, hbt, hostQuiet_of_script hq hbt hscript⟩, hcount⟩

/-! ## The end of a run -/

/-- The transaction in flight in `s` ends in the way `e` with the step after the first `n`. -/
def EndsAfter (n : Nat) (s : State) (e : Ending) : Prop :=
  ∃ t u, InFlightFor n s ∧ runFor n s = .next t ∧ step t = .next u ∧ endOfStep t u = some e

/-- A transaction ends by hanging or with some step. -/
theorem endsAs_iff {s : State} {e : Ending} : EndsAs s e ↔ (e = .hang ∧ Hangs s) ∨ ∃ n, EndsAfter n s e := Iff.rfl

/-- A step that ends a transaction leads to a state with none in flight. -/
theorem free_of_endOfStep {s t : State} {e : Ending} (h : endOfStep s t = some e) : t.busy = false := by
  by_contra hb
  rw [endOfStep, if_neg fun hends => hb hends.2] at h
  cases h

/-- A run is one step longer where the state it has led to steps on. -/
theorem runFor_succ {n : Nat} {s t : State} (h : runFor n s = .next t) : runFor (n + 1) s = step t :=
  (runFor_add 1 h).trans (runFor_one t)

/-- A run that has been in flight and still is. -/
theorem InFlightFor.succ {n : Nat} {s t : State} (h : InFlightFor n s) (hrun : runFor (n + 1) s = .next t)
    (hb : t.busy = true) : InFlightFor (n + 1) s := by
  intro m hm
  obtain hlt | rfl := Nat.lt_or_eq_of_le hm
  · exact h m (Nat.le_of_lt_succ hlt)
  · exact ⟨t, hrun, hb⟩

/-- A run that no step ends stays in flight, without `P`. -/
theorem InFlight.runFor {s : State} (h : InFlight s) (hno : ∀ n e, ¬ EndsAfter n s e) (n : Nat) :
    InFlightFor n s ∧
      ∃ t, runFor n s = .next t ∧ InFlight t ∧ (wire t).count .stop = (wire s).count .stop := by
  induction n with
  | zero =>
    refine ⟨fun m hm => ?_, s, rfl, h, rfl⟩
    obtain rfl := Nat.le_zero.1 hm
    exact ⟨s, rfl, h.busy⟩
  | succ n ih =>
    obtain ⟨hfor, t, hrun, ht, hcount⟩ := ih
    obtain ⟨u, hu, ⟨hflight, hstep⟩ | ⟨e, he⟩⟩ := ht.step
    · have hnext := (runFor_succ hrun).trans hu
      exact ⟨hfor.succ hnext hflight.busy, u, hnext, hflight, hstep.trans hcount⟩
    · exact absurd ⟨t, u, hfor, hrun, hu, he⟩ (hno n e)

/-- From a sound state in flight the transaction ends in some way. -/
theorem InFlight.exists_ending {s : State} (h : InFlight s) : ∃ e, EndsAs s e := by
  by_cases hends : ∃ n e, EndsAfter n s e
  · obtain ⟨n, e, hn⟩ := hends
    exact ⟨e, endsAs_iff.2 (.inr ⟨n, hn⟩)⟩
  · refine ⟨.hang, endsAs_iff.2 (.inl ⟨rfl, fun n => ?_⟩)⟩
    obtain ⟨-, t, hrun, ht, hcount⟩ := h.runFor (fun n e hn => hends ⟨n, e, hn⟩) n
    exact ⟨t, hrun, ht.busy, hcount⟩

/-- A run does not go on in flight past the step that ends it. -/
theorem EndsAfter.not_inFlightFor {n m : Nat} {s : State} {e : Ending} (h : EndsAfter n s e) (hm : n < m) :
    ¬ InFlightFor m s := by
  intro hfor
  obtain ⟨t, u, -, hrun, hstep, hend⟩ := h
  obtain ⟨v, hv, hb⟩ := hfor (n + 1) hm
  cases hv.symm.trans ((runFor_succ hrun).trans hstep)
  simp [free_of_endOfStep hend] at hb

/-- A transaction that hangs is in flight at every step. -/
theorem Hangs.inFlightFor {s : State} (h : Hangs s) (n : Nat) : InFlightFor n s := by
  intro m _
  obtain ⟨t, hrun, hb, -⟩ := h m
  exact ⟨t, hrun, hb⟩

/-- Two steps that end a run are the same step, and end it in the same way. -/
theorem EndsAfter.unique {n m : Nat} {s : State} {e e' : Ending} (h : EndsAfter n s e) (h' : EndsAfter m s e') :
    e' = e := by
  have hnot := fun hlt : n < m => h.not_inFlightFor hlt
  have hnot' := fun hlt : m < n => h'.not_inFlightFor hlt
  obtain ⟨t, u, hfor, hrun, hstep, hend⟩ := h
  obtain ⟨t', u', hfor', hrun', hstep', hend'⟩ := h'
  obtain rfl : n = m :=
    Nat.le_antisymm (Nat.le_of_not_lt fun hlt => hnot' hlt hfor) (Nat.le_of_not_lt fun hlt => hnot hlt hfor')
  cases hrun.symm.trans hrun'
  cases hstep.symm.trans hstep'
  exact Option.some.inj (hend'.symm.trans hend)

/-- A transaction ends in at most one way. -/
theorem EndsAs.unique {s : State} {e e' : Ending} (h : EndsAs s e) (h' : EndsAs s e') : e' = e := by
  obtain ⟨he, hhang⟩ | ⟨n, hn⟩ := endsAs_iff.1 h <;> obtain ⟨he', hhang'⟩ | ⟨m, hm⟩ := endsAs_iff.1 h'
  · rw [he, he']
  · exact absurd (hhang.inFlightFor _) (hm.not_inFlightFor m.lt_succ_self)
  · exact absurd (hhang'.inFlightFor _) (hn.not_inFlightFor n.lt_succ_self)
  · exact hn.unique hm

/-- Settles O58: a step leads to a sound state, which in flight has a completion pending or a bit to come and is idle
with none in flight; a run in flight goes on for ever or has a first step that ends it. -/
theorem restAndEndings : Obligations.RestAndEndings := by
  unfold Obligations.RestAndEndings
  constructor
  · intro s t hI h
    obtain ⟨⟨-, -, hidle, -⟩, ⟨-, -, -, -, -, -, hmoving⟩, -⟩ := stepKeepsBoundaryInvariants s t hI h
    refine ⟨fun hb hrest => hmoving hb hrest.1 hrest.2, fun hfinal => ?_⟩
    obtain ⟨hphase, -, -, hpins⟩ := hidle hfinal.2
    exact ⟨hphase, hpins⟩
  · intro s hI hb hq
    obtain ⟨e, he⟩ := InFlight.exists_ending ⟨hI, hb, hq⟩
    exact ⟨e, he, fun e' he' => he.unique he'⟩

end Sys2Proof.Machine
end
